-- ==== Sys2Proof/Word.lean ====
section
/-! DEFINITION. The widths of the values the grunenwald CORE moves (spec/00_scope.md R13, spec/30_encoding.md R92). -/

namespace Sys2Proof

/-- A byte: an input byte, a raw I or Q value, a decoded byte, a nibble pair (R13). -/
abbrev Byte := BitVec 8

/-- A sample index, modulo 2^64 (R24). -/
abbrev Index := BitVec 64

/-- A run length in samples, or a bit length in bit periods (R98, R99). -/
abbrev Length := BitVec 32

end Sys2Proof
end

