-- ==== Sys2Proof/Syntax.lean ====
section
/-! DEFINITION. The fourteen operations of the block as syntax: one constructor of `Instr` per row of
spec/opcode_table.json (spec/30_encoding.md R92), operands in the field order of that rule. -/

namespace Sys2Proof

/-- A symbol, "one of {−1, 0, +1}" (R96); also a run value and a bit value. -/
inductive Symbol
  | neg
  | zero
  | pos
  deriving DecidableEq, Repr

/-- A bit event: low is -1, high is +1 (R102). -/
inductive Level
  | low
  | high
  deriving DecidableEq, Repr

/-- Window select: 0 the power window `P`, 1 the phase window `F` (R92, R116). -/
inductive WindowSel
  | power
  | phase
  deriving DecidableEq, Repr

/-- The operations. `SW.INIT` and `SW.UPDATE` values are 18-bit two's complement fields. -/
inductive Instr
  /-- `RESET` (R300) -/
  | reset
  /-- `IN.BYTE b` (R150) -/
  | inByte (b : Byte)
  /-- `DEMOD.SAMPLE i, q` (R152) -/
  | demodSample (i q : Byte)
  /-- `MAG.LOOKUP i, q` (R131) -/
  | magLookup (i q : Byte)
  /-- `SW.INIT w, n, v` (R141) -/
  | swInit (w : WindowSel) (n : BitVec 16) (v : BitVec 18)
  /-- `SW.UPDATE w, v` (R142) -/
  | swUpdate (w : WindowSel) (v : BitVec 18)
  /-- `RUN.SYMBOL sym, idx` (R171) -/
  | runSymbol (sym : Symbol) (idx : Index)
  /-- `CLS.RUN val, len, start` (R174) -/
  | clsRun (val : Symbol) (len : Length) (start : Index)
  /-- `SYNC.APPEND val, len, start` (R191) -/
  | syncAppend (val : Symbol) (len : Length) (start : Index)
  /-- `SYNC.GAP` (R195) -/
  | syncGap
  /-- `SER.FRAME ds, fstart` (R211) -/
  | serFrame (ds : BitVec 16) (fstart : Index)
  /-- `SER.BIT b` (R212) -/
  | serBit (b : Level)
  /-- `APP.DECODE a` (R231) -/
  | appDecode (abort : Bool)
  /-- `APP.DIGIT b` (R234) -/
  | appDigit (b : Byte)
  deriving DecidableEq, Repr

end Sys2Proof
end

