-- ==== Sys2Proof/WellFormed.lean ====
section
/-! DEFINITION. Which operation words are invalid for their operands: spec/30_encoding.md R114 (c), (d), (e). The
reserved codes of R114 (a) and (b) have no constructor of `Instr`; the decoder rejects them. -/

namespace Sys2Proof

/-- Why an operand is outside its range (R114; treatment U2 of spec/93_implementation_defined.md). -/
inductive Defect
  /-- R114 (d): `SW.INIT` with `n = 0` -/
  | windowSizeZero
  /-- R114 (e): a window value outside 0 .. 5 (power) or -32640 .. 32640 (phase) -/
  | windowValueRange
  /-- R114 (c): `SYNC.APPEND` with `val = 00` or `len = 0` -/
  | notClassifiedBit
  deriving DecidableEq, Repr

/-- The least value a window entry may have (R23, R25). -/
def WindowSel.lo : WindowSel → Int
  | .power => 0
  | .phase => -32640

/-- The greatest value a window entry may have (R23, R25). -/
def WindowSel.hi : WindowSel → Int
  | .power => 5
  | .phase => 32640

/-- A value the window's entries may have (R114 (e)). -/
def WindowSel.admits (w : WindowSel) (v : Int) : Bool :=
  decide (w.lo ≤ v ∧ v ≤ w.hi)

/-- The defect of an instruction's operands, if any. -/
def Instr.defect : Instr → Option Defect
  | .reset => none
  | .inByte _ => none
  | .demodSample _ _ => none
  | .magLookup _ _ => none
  | .swInit w n v =>
    if n = 0 then some .windowSizeZero
    else if w.admits v.toInt then none
    else some .windowValueRange
  | .swUpdate w v => if w.admits v.toInt then none else some .windowValueRange
  | .runSymbol _ _ => none
  | .clsRun _ _ _ => none
  | .syncAppend val len _ => if val = .zero ∨ len = 0 then some .notClassifiedBit else none
  | .syncGap => none
  | .serFrame _ _ => none
  | .serBit _ => none
  | .appDecode _ => none
  | .appDigit _ => none

/-- Every operand is in its range. -/
def Instr.wellFormed (i : Instr) : Bool := i.defect.isNone

end Sys2Proof
end

