-- ==== Sys2Proof/Decode.lean ====
section
/-! DEFINITION. Operation words as bits, most significant first: the decoder, total on any bit sequence and rejecting by
name, and the encoder (spec/30_encoding.md R91, R92, R96, R114). The OPID fixes the width, so the decoder cuts one word
from the front of a sequence and returns the rest. -/

namespace Sys2Proof

/-- Why a bit sequence starts with no operation word (R114). -/
inductive DecodeError
  /-- the sequence ends inside the word -/
  | truncated
  /-- R114 (a): OPID 14 or 15 -/
  | reservedOpid
  /-- R114 (b): symbol code `10` -/
  | reservedSymbol
  /-- R114 (c), (d), (e): an operand outside its range -/
  | operand (d : Defect)
  deriving DecidableEq, Repr

/-- The low `n` bits of `x`, most significant first (R91). -/
def bitsOfNat : Nat → Nat → List Bool
  | 0, _ => []
  | n + 1, x => x.testBit n :: bitsOfNat n x

/-- A field's bits, most significant first (R91). -/
def fieldBits {n : Nat} (x : BitVec n) : List Bool := bitsOfNat n x.toNat

/-- Reads `n` bits, most significant first, as an unsigned number, with the rest of the sequence. -/
def readBits : Nat → List Bool → Option (Nat × List Bool)
  | 0, l => some (0, l)
  | _ + 1, [] => none
  | n + 1, b :: l =>
    match readBits n l with
    | some (v, rest) => some (b.toNat * 2 ^ n + v, rest)
    | none => none

/-- What decoding answers: an instruction and the rest of the sequence, or the reason there is none. -/
abbrev Decoded := Except DecodeError (Instr × List Bool)

/-- Reads the next field of `n` bits and goes on with it. -/
def withField (n : Nat) (l : List Bool) (k : BitVec n → List Bool → Decoded) : Decoded :=
  match readBits n l with
  | some (v, rest) => k (BitVec.ofNat n v) rest
  | none => .error .truncated

/-- Symbol code, two's complement on 2 bits (R96). -/
def symbolCode : Symbol → BitVec 2
  | .zero => 0b00
  | .pos => 0b01
  | .neg => 0b11

/-- The symbol of a code; `10` is reserved (R96, R114 (b)). -/
def symbolOfCode (c : BitVec 2) : Option Symbol :=
  if c = 0b00 then some .zero
  else if c = 0b01 then some .pos
  else if c = 0b11 then some .neg
  else none

/-- Reads a symbol field and goes on with it. -/
def withSymbol (l : List Bool) (k : Symbol → List Bool → Decoded) : Decoded :=
  withField 2 l fun c rest =>
    match symbolOfCode c with
    | some s => k s rest
    | none => .error .reservedSymbol

/-- Window select code: 0 power, 1 phase (R92). -/
def windowCode : WindowSel → BitVec 1
  | .power => 0
  | .phase => 1

/-- The window of a select bit (R92). -/
def windowOfCode (c : BitVec 1) : WindowSel := if c = 0 then .power else .phase

/-- Bit event code: 0 low, 1 high (R102). -/
def levelCode : Level → BitVec 1
  | .low => 0
  | .high => 1

/-- The bit event of a code (R102). -/
def levelOfCode (c : BitVec 1) : Level := if c = 0 then .low else .high

/-- Accepts a word whose operands are in range (R114). -/
def checkedWord (i : Instr) (rest : List Bool) : Decoded :=
  match i.defect with
  | none => .ok (i, rest)
  | some d => .error (.operand d)

/-- The operand fields after the OPID, in the order of R92. -/
def decodeBody (opid : Nat) (l : List Bool) : Decoded :=
  match opid with
  | 0 => checkedWord .reset l
  | 1 => withField 8 l fun b l => checkedWord (.inByte b) l
  | 2 => withField 8 l fun i l => withField 8 l fun q l => checkedWord (.demodSample i q) l
  | 3 => withField 8 l fun i l => withField 8 l fun q l => checkedWord (.magLookup i q) l
  | 4 => withField 1 l fun w l => withField 16 l fun n l => withField 18 l fun v l =>
      checkedWord (.swInit (windowOfCode w) n v) l
  | 5 => withField 1 l fun w l => withField 18 l fun v l => checkedWord (.swUpdate (windowOfCode w) v) l
  | 6 => withSymbol l fun s l => withField 64 l fun x l => checkedWord (.runSymbol s x) l
  | 7 => withSymbol l fun s l => withField 32 l fun n l => withField 64 l fun x l =>
      checkedWord (.clsRun s n x) l
  | 8 => withSymbol l fun s l => withField 32 l fun n l => withField 64 l fun x l =>
      checkedWord (.syncAppend s n x) l
  | 9 => checkedWord .syncGap l
  | 10 => withField 16 l fun d l => withField 64 l fun x l => checkedWord (.serFrame d x) l
  | 11 => withField 1 l fun b l => checkedWord (.serBit (levelOfCode b)) l
  | 12 => withField 1 l fun a l => checkedWord (.appDecode (a != 0)) l
  | 13 => withField 8 l fun b l => checkedWord (.appDigit b) l
  | _ => .error .reservedOpid

/-- Cuts the first operation word from a bit sequence (R91). -/
def decode (l : List Bool) : Decoded :=
  match readBits 4 l with
  | some (opid, rest) => decodeBody opid rest
  | none => .error .truncated

/-- The OPID of an operation (R92). -/
def Instr.opid : Instr → BitVec 4
  | .reset => 0
  | .inByte _ => 1
  | .demodSample _ _ => 2
  | .magLookup _ _ => 3
  | .swInit _ _ _ => 4
  | .swUpdate _ _ => 5
  | .runSymbol _ _ => 6
  | .clsRun _ _ _ => 7
  | .syncAppend _ _ _ => 8
  | .syncGap => 9
  | .serFrame _ _ => 10
  | .serBit _ => 11
  | .appDecode _ => 12
  | .appDigit _ => 13

/-- The operand fields of an operation, in the order of R92. -/
def operandBits : Instr → List Bool
  | .reset => []
  | .inByte b => fieldBits b
  | .demodSample i q => fieldBits i ++ fieldBits q
  | .magLookup i q => fieldBits i ++ fieldBits q
  | .swInit w n v => fieldBits (windowCode w) ++ fieldBits n ++ fieldBits v
  | .swUpdate w v => fieldBits (windowCode w) ++ fieldBits v
  | .runSymbol s x => fieldBits (symbolCode s) ++ fieldBits x
  | .clsRun s n x => fieldBits (symbolCode s) ++ fieldBits n ++ fieldBits x
  | .syncAppend s n x => fieldBits (symbolCode s) ++ fieldBits n ++ fieldBits x
  | .syncGap => []
  | .serFrame d x => fieldBits d ++ fieldBits x
  | .serBit b => fieldBits (levelCode b)
  | .appDecode a => fieldBits (BitVec.ofBool a)
  | .appDigit b => fieldBits b

/-- The operation word: the OPID, then the operand fields (R91). -/
def encode (i : Instr) : List Bool := fieldBits i.opid ++ operandBits i

/-- The width of the word an OPID starts (R92); none for the reserved ones. -/
def wordWidth (opid : Nat) : Option Nat :=
  match opid with
  | 0 => some 4
  | 1 => some 12
  | 2 => some 20
  | 3 => some 20
  | 4 => some 39
  | 5 => some 23
  | 6 => some 70
  | 7 => some 102
  | 8 => some 102
  | 9 => some 4
  | 10 => some 84
  | 11 => some 5
  | 12 => some 5
  | 13 => some 12
  | _ => none

/-- The number `w` read as a word of `width` bits starts with an OPID of that very width. -/
def fitsWidth (w width : Nat) : Bool :=
  decide (w < 2 ^ width) && wordWidth (w >>> (width - 4)) == some width

/-- The width of the table row a number belongs to. The table gives a row as one number of the row's own width; the
caller counts whole bytes, so the width is found from the number, which no two rows share (test_tableWord_rows). -/
def tableWidth (nbits w : Nat) : Nat :=
  ([4, 5, 12, 20, 23, 39, 70, 84, 102].find? (fitsWidth w)).getD nbits

/-- The bits of a table row's word as the block reads them, most significant first. -/
def tableBits (nbits w : Nat) : List Bool :=
  bitsOfNat (tableWidth nbits (w % 2 ^ nbits)) (w % 2 ^ nbits)

/-- The instruction the decoder reads from a table row's number. -/
def decodeTableWord (nbits w : Nat) : Option Instr :=
  match decode (tableBits nbits w) with
  | .ok (i, []) => some i
  | .ok (_, _ :: _) => none
  | .error _ => none

end Sys2Proof
end

