-- ==== Sys2Proof/Config.lean ====
section
/-! DEFINITION. The configuration registers CFG0 to CFG20 (spec/00_scope.md R9, spec/10_state.md R45, R46). Every OPEN
parameter of spec/92_eei_decisions.md section 2 is a field, so a statement about every state is about every value of it.
No value of the spec is left undefined to the machine, so there is no opaque free value. -/

namespace Sys2Proof

/-- `PARITY_MODE` (R46). -/
inductive ParityMode
  | none
  | even
  | odd
  | ignored
  deriving DecidableEq, Repr

/-- An element of `SYNC_PATTERN`, memory `PAT` (R46, R101). -/
structure PatElem where
  val : Symbol
  len : Length
  deriving DecidableEq, Repr

/-- A record of `KINDS`, memory `KND` (R46); `kind` is the frame kind code of R108. -/
structure KindRec where
  kind : BitVec 2
  sig0 : Byte
  sig1 : Byte
  trailer : Byte
  deriving DecidableEq, Repr

/-- A record of `FIELD_MAP`, memory `FMAP` (R110). -/
structure FieldRec where
  fieldId : BitVec 8
  ftype : BitVec 8
  offset : BitVec 16
  mask : BitVec 8
  deriving DecidableEq, Repr

/-- The configuration, field by field as the table of R9 lists it. -/
structure Config where
  /-- CFG0 `SAMPLE_RATE` -/
  sampleRate : Nat
  /-- CFG1 `BIT_RATE` -/
  bitRate : Nat
  /-- CFG2 `SHIFT` -/
  shift : Nat
  /-- CFG3 `PWR_THRESH` -/
  pwrThresh : Int
  /-- CFG4 `ACCEPT_THRESH` -/
  acceptThresh : Nat
  /-- CFG5 `PWR_WIN_N` -/
  pwrWinN : Nat
  /-- CFG6 `PH_WIN_N` -/
  phWinN : Nat
  /-- CFG7 `PWR_WIN_INIT` -/
  pwrWinInit : Int
  /-- CFG7 `PH_WIN_INIT` -/
  phWinInit : Int
  /-- CFG8 `SYNC_PATTERN` -/
  syncPattern : List PatElem
  /-- CFG9 `FB_CAP` -/
  fbCap : Nat
  /-- CFG10 `BYTE_CAP` -/
  byteCap : Nat
  /-- CFG11 `DATA_BITS` -/
  dataBits : Nat
  /-- CFG12 `PARITY_MODE` -/
  parityMode : ParityMode
  /-- CFG13 `STOP_BITS` -/
  stopBits : Nat
  /-- CFG14 `LSB_FIRST` -/
  lsbFirst : Bool
  /-- CFG15 `PARITY_CHECK_EN` -/
  parityCheckEn : Bool
  /-- CFG16 `ZERO_FALLBACK_EN` -/
  zeroFallbackEn : Bool
  /-- CFG17 `KINDS` -/
  kinds : List KindRec
  /-- CFG18 `DIGIT_PATTERNS` -/
  digitPatterns : List Byte
  /-- CFG19 `FIELD_MAP` -/
  fieldMap : List FieldRec
  /-- CFG20 `DUMP_UNKNOWN_EN` -/
  dumpUnknownEn : Bool
  deriving DecidableEq, Repr

/-- The constant `CENTER` (R9): the zero level of a raw sample value. -/
def Config.center : Nat := 128

/-- The constant `START_BITS` (R9). -/
def Config.startBits : Nat := 1

/-- DESIGN CHOICE (unsafe, log entry 1): the configuration inputs of the model's reset state. The spec leaves them to the
host; these are the values of program P2 of spec/95_test_vectors.md section 3 (base configuration `T0`). -/
def Config.atReset : Config where
  sampleRate := 2
  bitRate := 1
  shift := 4
  pwrThresh := 1
  acceptThresh := 4
  pwrWinN := 1
  phWinN := 1
  pwrWinInit := 0
  phWinInit := 0
  syncPattern := [⟨.neg, 1⟩, ⟨.pos, 1⟩]
  fbCap := 64
  byteCap := 16
  dataBits := 8
  parityMode := .none
  stopBits := 1
  lsbFirst := false
  parityCheckEn := false
  zeroFallbackEn := true
  kinds := [⟨1, 0x8F, 0xA5, 0xF1⟩]
  digitPatterns := [0x00, 0x11, 0x22, 0x33, 0x44, 0x55, 0x66, 0x77, 0x88, 0x99]
  fieldMap := [⟨1, 0, 2, 0⟩, ⟨2, 0, 3, 0⟩, ⟨3, 0, 4, 0⟩, ⟨8, 1, 5, 0x03⟩]
  dumpUnknownEn := true

end Sys2Proof
end

