-- ==== Sys2Proof/Machine/Window.lean ====
section
/-! DEFINITION. The sliding window accumulator: its registers (spec/10_state.md R23, R25) and its two transitions
(spec/41_sliding_window.md R141, R142), the same for both instances. Sums are exact integers (spec/00_scope.md R12). -/

namespace Sys2Proof.Machine

/-- A SlidingWindow. The capacity N of R141 is the number of entries of `buf` (log entry 6). -/
structure Window where
  /-- memory `PW` or `FW`, entry by entry -/
  buf : List Int
  /-- index of the oldest entry, the next to be evicted -/
  pos : Nat
  sum : Int
  /-- the sum before the most recent update -/
  prevSum : Int
  /-- the truncated average -/
  avg : Int
  deriving DecidableEq, Repr

/-- The capacity N. -/
def Window.size (w : Window) : Nat := w.buf.length

/-- `SW.INIT` on one window (R141). -/
def Window.init (n : Nat) (v : Int) : Window where
  buf := List.replicate n v
  pos := 0
  sum := n * v
  prevSum := n * v
  avg := v

/-- The oldest value, `MemRead(W.buf:W.pos)` (R142 step 1). -/
def Window.oldest (w : Window) : Int := w.buf.getD w.pos 0

/-- `SW.UPDATE` on one window (R142); the division truncates toward zero (log entry 10). -/
def Window.update (w : Window) (v : Int) : Window where
  buf := w.buf.set w.pos v
  pos := (w.pos + 1) % w.size
  prevSum := w.sum
  sum := w.sum - w.oldest + v
  avg := (w.sum - w.oldest + v).tdiv w.size

end Sys2Proof.Machine
end

