-- ==== Sys2Proof/Machine/State.lean ====
section
/-! DEFINITION. Every piece of state the spec gives the block (spec/10_state.md R20 to R36, R45; spec/20_memory.md R60),
as plain data, the state after reset (R55), and the reasons a step can stop. -/

namespace Sys2Proof.Machine

/-- The `ser_state` enumeration (R36). -/
inductive SerState
  | wait
  | data (i : Nat)
  | parity
  | stop (j : Nat)
  deriving DecidableEq, Repr

/-- A Run record (R98); the open run is `run_val`, `run_len`, `run_start` (R30). -/
structure Run where
  val : Symbol
  len : Length
  start : Index
  deriving DecidableEq, Repr

/-- A ClassifiedBit record (R99), an entry of memory `FB`. -/
structure ClassifiedBit where
  val : Symbol
  len : Length
  start : Index
  deriving DecidableEq, Repr

/-- A Symbol record (R97). -/
structure SymbolRec where
  sym : Symbol
  idx : Index
  deriving DecidableEq, Repr

/-- The serial decoder registers (R33). -/
structure Serial where
  state : SerState
  acc : Byte
  ones : Nat
  par : Bool
  deriving DecidableEq, Repr

/-- The byte buffer registers and memory `BB` (R34). `bytes` holds the `bb_len` valid entries (log entry 5). -/
structure ByteBuffer where
  bytes : List Byte
  trunc : Bool
  perr : Bool
  start : Index
  deriving DecidableEq, Repr

/-- The frame kinds (R108). -/
inductive FrameKind
  | unknown
  | score
  | clock
  deriving DecidableEq, Repr

/-- A field value (R111). -/
structure FieldValue where
  fieldId : BitVec 8
  value : BitVec 8
  deriving DecidableEq, Repr

/-- A FRAME event record (R112); `nbytes` and `nfields` are the lengths of the two lists. -/
structure FrameEvent where
  kind : FrameKind
  fbTrunc : Bool
  bbTrunc : Bool
  bbPerr : Bool
  start : Index
  bytes : List Byte
  fields : List FieldValue
  deriving DecidableEq, Repr

/-- The nine conditions (R271). -/
inductive DiagCode
  | lowConf
  | fbTrunc
  | noSync
  | ferr
  | partialChar
  | bbTrunc
  | perr
  | short
  | malformed
  deriving DecidableEq, Repr

/-- A DIAG event record (R113). -/
structure DiagEvent where
  code : DiagCode
  idx : Index
  deriving DecidableEq, Repr

/-- An auxiliary output record `{aux_pwr, aux_ph}` (R118). -/
structure AuxSample where
  pwr : Int
  ph : Int
  deriving DecidableEq, Repr

/-- A classifier result (R100). -/
inductive ClsResult
  | bit (cb : ClassifiedBit)
  | gap
  | drop
  deriving DecidableEq, Repr

/-- A serial decoder result of one bit event (R103). -/
inductive SerResult
  | none
  | byte (b : Byte) (perr : Bool)
  | ferr
  deriving DecidableEq, Repr

/-- A result of `SER.FRAME` (R211). -/
inductive FrameResult
  | ok
  | ferr
  deriving DecidableEq, Repr

/-- The result record of an operation (R90 and the column "result" of R92). -/
inductive OpResult
  | none
  | symbol (r : SymbolRec)
  | magnitude (m : Nat)
  | average (a : Int)
  | run (r : Run)
  | classified (c : ClsResult)
  | frame (e : FrameEvent)
  | serFrame (r : FrameResult)
  | serBit (r : SerResult)
  | digit (d : Nat)
  deriving DecidableEq, Repr

/-- The state of one pipeline instance, with the inputs the host holds and the outputs it takes. -/
structure State where
  /-- the configuration registers CFG0 to CFG20, sampled by `RESET` (R45) -/
  cfg : Config
  /-- the configuration input pins (R252) -/
  cfgIn : Config
  /-- the `rst` pin: high is the mode *reset*, low the mode *run* (R252, R287) -/
  rst : Bool
  /-- stream `IN`: the bytes offered and not yet taken (R61) -/
  inBytes : List Byte
  /-- the model's own: operation words offered for a stage test, as bits (R91; log entry 3) -/
  opBits : List Bool
  /-- `di_phase` (R21) -/
  diPhase : Bool
  /-- `di_hold` (R21) -/
  diHold : Byte
  /-- `prev_i` (R22) -/
  prevI : Byte
  /-- `prev_q` (R22) -/
  prevQ : Byte
  /-- the power window (R23) -/
  pw : Window
  /-- the phase window (R25) -/
  fw : Window
  /-- the sample counter (R24) -/
  n : Index
  /-- the open run (R30) -/
  run : Run
  /-- memory `FB`: the `fb_len` valid entries in arrival order (R32; log entry 5) -/
  fb : List ClassifiedBit
  /-- `fb_trunc` (R32) -/
  fbTrunc : Bool
  /-- the serial decoder registers (R33) -/
  ser : Serial
  /-- the byte buffer (R34) -/
  bb : ByteBuffer
  /-- stream `OUT`, FRAME events, oldest first (R62, R112) -/
  frames : List FrameEvent
  /-- stream `OUT`, DIAG events, oldest first (R113) -/
  diags : List DiagEvent
  /-- the auxiliary outputs, oldest first (R118) -/
  aux : List AuxSample
  /-- the model's own: the result record of the last operation (R90; log entry 4) -/
  result : OpResult
  deriving DecidableEq, Repr

/-- The run open at reset (R172). -/
def Run.atReset : Run := ⟨.zero, 0, 0⟩

/-- The serial decoder registers in the state `WAIT`, cleared (R55). -/
def Serial.clear : Serial := ⟨.wait, 0, 0, false⟩

/-- The byte buffer, emptied for a frame attempt that starts at `start` (R55, R211 step 1). -/
def ByteBuffer.empty (start : Index) : ByteBuffer := ⟨[], false, false, start⟩

/-- The state after reset under the configuration `c` (R55), with nothing offered and nothing produced yet. -/
def State.resetWith (c : Config) : State where
  cfg := c
  cfgIn := c
  rst := false
  inBytes := []
  opBits := []
  diPhase := false
  diHold := 0
  prevI := 128
  prevQ := 128
  pw := Window.init c.pwrWinN c.pwrWinInit
  fw := Window.init c.phWinN c.phWinInit
  n := 0
  run := Run.atReset
  fb := []
  fbTrunc := false
  ser := Serial.clear
  bb := ByteBuffer.empty 0
  frames := []
  diags := []
  aux := []
  result := .none

/-- The machine right after reset (R55), for the configuration inputs of log entry 1. -/
def State.reset : State := State.resetWith Config.atReset

/-- No operation faults: "No behaviour of this block is treated as `fault`" (spec/93_implementation_defined.md). Nobody
raises a fault, so the type has no constructor, and that is safe. -/
inductive Fault
  deriving DecidableEq, Repr

/-- Why a step has no next state. -/
inductive Refusal
  /-- Raised by an arm of `exec` whose instruction has no meaning yet. Safe: nothing is claimed of it. -/
  | notModelled (mnemonic : String)
  /-- Raised by `RESET` for illegal configuration inputs, and by every other operation, and by the step with nothing
  offered, in a state whose configuration is illegal: "the model gives such a block no behaviour at all" (R11). Safe: nothing is claimed of such a block. -/
  | illegalConfig
  /-- Raised by the fetch of an operation word that decodes to *invalid* (R114 (a), (b), and a word cut short).
  Safe: the block never sees such a word on its pins. -/
  | invalidWord (e : DecodeError)
  /-- Raised by `SW.INIT`, `SW.UPDATE`, `SYNC.APPEND` for operands outside their ranges (R114 (c), (d), (e)).
  Safe: the block never produces them. -/
  | invalidOperand (d : Defect)
  deriving DecidableEq, Repr

end Sys2Proof.Machine
end

