-- ==== Sys2Proof/Machine/Ops.lean ====
section
/-! DEFINITION. The named operations over the registers and memories, the legality of a configuration (spec/00_scope.md
R9, R11), and how an operation answers. The block has no exception entry and no return (spec/60_exceptions.md R284, R285):
what it has in their place is `raise`, which appends a DIAG event and does nothing else (R270). -/

namespace Sys2Proof

/-- CFG0, CFG1 (R9). -/
def Config.ratesLegal (c : Config) : Bool :=
  decide (1 ≤ c.sampleRate ∧ c.sampleRate < 2 ^ 32 ∧ 1 ≤ c.bitRate ∧ c.bitRate ≤ c.sampleRate)

/-- CFG2, CFG4 (R9). -/
def Config.classifierLegal (c : Config) : Bool :=
  decide (1 ≤ c.shift ∧ c.shift ≤ 15 ∧ c.acceptThresh ≤ 2 ^ (c.shift - 1))

/-- CFG3, CFG5, CFG6, CFG7 (R9). -/
def Config.windowsLegal (c : Config) : Bool :=
  decide (-1 ≤ c.pwrThresh ∧ c.pwrThresh ≤ 5 ∧ 1 ≤ c.pwrWinN ∧ c.pwrWinN ≤ 65535 ∧ 1 ≤ c.phWinN ∧ c.phWinN ≤ 65535)
    && WindowSel.power.admits c.pwrWinInit && WindowSel.phase.admits c.phWinInit

/-- CFG8, CFG9, CFG10 (R9). -/
def Config.buffersLegal (c : Config) : Bool :=
  decide (1 ≤ c.fbCap ∧ c.fbCap ≤ 65535 ∧ 4 ≤ c.byteCap ∧ c.byteCap ≤ 65535 ∧
    1 ≤ c.syncPattern.length ∧ c.syncPattern.length ≤ c.fbCap ∧
    ∀ p ∈ c.syncPattern, p.val ≠ .zero ∧ p.len ≠ 0)

/-- CFG11, CFG13 (R9). -/
def Config.framingLegal (c : Config) : Bool :=
  decide (1 ≤ c.dataBits ∧ c.dataBits ≤ 8 ∧ 1 ≤ c.stopBits ∧ c.stopBits ≤ 3)

/-- CFG17, CFG18, CFG19 (R9, R46, R110, R114 (f)). -/
def Config.tablesLegal (c : Config) : Bool :=
  decide (c.kinds.length ≤ 2 ∧ (∀ r ∈ c.kinds, r.kind = 1 ∨ r.kind = 2) ∧
    c.digitPatterns.length = 10 ∧ c.digitPatterns.Nodup ∧
    c.fieldMap.length ≤ 255 ∧ ∀ f ∈ c.fieldMap, f.ftype = 0 ∨ f.ftype = 1)

/-- Every field is inside its legal range (R9). -/
def Config.legal (c : Config) : Bool :=
  c.ratesLegal && c.classifierLegal && c.windowsLegal && c.buffersLegal && c.framingLegal && c.tablesLegal

namespace Machine

/-- How an operation answers (R11, R114, R270): invalid operands and a block with an illegal configuration are refused;
otherwise the operation has its effect `s'`. No condition stops the block. -/
def complete (i : Instr) (s s' : State) : Host.Outcome State Fault Refusal :=
  match i.defect with
  | some d => .refused (.invalidOperand d)
  | none => if s.cfg.legal then .next s' else .refused .illegalConfig

/-! ### Registers -/

def State.setDi (s : State) (phase : Bool) (hold : Byte) : State := { s with diPhase := phase, diHold := hold }

def State.setPrev (s : State) (i q : Byte) : State := { s with prevI := i, prevQ := q }

/-- The window a select names (R92). -/
def State.window (s : State) : WindowSel → Window
  | .power => s.pw
  | .phase => s.fw

def State.setWindow (s : State) (sel : WindowSel) (w : Window) : State :=
  match sel with
  | .power => { s with pw := w }
  | .phase => { s with fw := w }

def State.setN (s : State) (n : Index) : State := { s with n := n }

def State.setRun (s : State) (r : Run) : State := { s with run := r }

def State.setFb (s : State) (fb : List ClassifiedBit) (trunc : Bool) : State := { s with fb := fb, fbTrunc := trunc }

def State.setSer (s : State) (r : Serial) : State := { s with ser := r }

def State.setBb (s : State) (b : ByteBuffer) : State := { s with bb := b }

def State.setResult (s : State) (r : OpResult) : State := { s with result := r }

def State.setInBytes (s : State) (l : List Byte) : State := { s with inBytes := l }

def State.setOpBits (s : State) (l : List Bool) : State := { s with opBits := l }

/-! ### Memories (R60): whole entries; the length registers are the lengths of the lists of valid entries -/

/-- `fb_len` (R32). -/
def State.fbLen (s : State) : Nat := s.fb.length

/-- `bb_len` (R34). -/
def State.bbLen (s : State) : Nat := s.bb.bytes.length

/-- `MemRead(BB:k, 8)`; every index the rules compute is below `bb_len` (R68; log entry 20). -/
def readBb (b : ByteBuffer) (k : Nat) : Byte := b.bytes.getD k 0

/-- The form every memory keeps: a window buffer has 1 to 65535 entries and its position is inside it; `FB` and `BB` hold
at most their capacities (R60, R68). -/
def Memory.wf (s : State) : Bool :=
  decide (1 ≤ s.pw.size ∧ s.pw.size ≤ 65535 ∧ s.pw.pos < s.pw.size ∧
    1 ≤ s.fw.size ∧ s.fw.size ≤ 65535 ∧ s.fw.pos < s.fw.size ∧
    s.fb.length ≤ s.cfg.fbCap ∧ s.bb.bytes.length ≤ s.cfg.byteCap)

/-! ### Outputs -/

/-- `raise Diag(code, idx)` (R14, R270). -/
def State.raise (s : State) (code : DiagCode) (idx : Index) : State := { s with diags := s.diags ++ [⟨code, idx⟩] }

/-- `emit FRAME(...)` (R14). -/
def State.emit (s : State) (e : FrameEvent) : State := { s with frames := s.frames ++ [e] }

/-- Delivers the auxiliary pair (R118). -/
def State.deliverAux (s : State) (a : AuxSample) : State := { s with aux := s.aux ++ [a] }

end Machine

end Sys2Proof
end

