-- ==== Sys2Proof/Machine/Operands.lean ====
section
/-! DEFINITION. Operand conversions: centering, the cross product, the magnitude table's index and content, classifier
constants, symbols and bit events (spec/30_encoding.md R94, R95, R96, R102; spec/40_magnitude_lut.md R132;
spec/42_fm_demodulator.md R153). -/

namespace Sys2Proof.Machine

/-- A raw byte minus 128 (R94). -/
def centered (b : Byte) : Int := (b.toNat : Int) - (Config.center : Int)

/-- `u1·v2 − u2·v1`, previous sample `u`, current sample `v`, first component I (R153). -/
def iqCrossProduct (prevI prevQ i q : Byte) : Int :=
  centered prevI * centered q - centered prevQ * centered i

/-- `m2 = ci² + cq²` (R132). -/
def magSquared (i q : Byte) : Int := centered i * centered i + centered q * centered q

/-- The thresholds of R132. -/
def magThresholds : List Int := [8, 55, 404, 2981, 22027]

/-- The number of thresholds that are ≤ `m2` (R132). -/
def magOfSquared (m2 : Int) : Nat := (magThresholds.filter (fun t => decide (t ≤ m2))).length

/-- Memory `LUT`: index `{I_raw, Q_raw}` (R69), content computed by R132 (R302 allows it; log entry 8). -/
def lut (addr : BitVec 16) : Nat :=
  magOfSquared (magSquared (addr.extractLsb' 8 8) (addr.extractLsb' 0 8))

/-- `sgn` (R12) as a symbol. -/
def signSymbol (x : Int) : Symbol := if 0 < x then .pos else if x < 0 then .neg else .zero

/-- The bit event of a bit value: +1 is high, -1 is low (R102). -/
def levelOf : Symbol → Level
  | .pos => .high
  | .neg => .low
  | .zero => .low

/-- A bit event as a data bit: high is 1, low is 0 (R102, R214). -/
def levelBit : Level → Bool
  | .high => true
  | .low => false

/-- `ONE = 1 << s` (R95). -/
def clsOne (shift : Nat) : Nat := 1 <<< shift

/-- `half = (ONE div 2) - 1` (R95). -/
def clsHalf (shift : Nat) : Nat := clsOne shift / 2 - 1

/-- `mask = ONE - 1` (R95). -/
def clsMask (shift : Nat) : Nat := clsOne shift - 1

/-- The key of a frame buffer entry that the preamble matcher compares: `val` and `len`, not `start` (R101, R193). -/
def ClassifiedBit.key (e : ClassifiedBit) : PatElem := ⟨e.val, e.len⟩

/-- Memory `DIG`: the digit code of a nibble pair, 15 for blank (R109). -/
def digitCode (patterns : List Byte) (b : Byte) : Nat := (patterns.idxOf? b).getD 15

/-- The frame kind of a code of `KND` (R108). -/
def kindOfCode (c : BitVec 2) : FrameKind :=
  if c = 1 then .score else if c = 2 then .clock else .unknown

end Sys2Proof.Machine
end

