-- ==== Sys2Proof/Machine/Flags.lean ====
section
/-! DEFINITION. The status bits of spec/10_state.md R40: the carrier, the truncation and parity flags, and the parity
verdict of spec/45_uart_deserializer.md R219. -/

namespace Sys2Proof.Machine

/-- `carrier`: the combinational value `pw.avg > cfg.PWR_THRESH` (R40 (a), R155). -/
def carrier (s : State) : Bool := decide (s.cfg.pwrThresh < s.pw.avg)

/-- The symbol decision of `DEMOD.SAMPLE` step 4, after both window updates (R152, R156, R157). -/
def decideSymbol (s : State) : Symbol :=
  if carrier s then
    if s.fw.sum ≠ 0 then signSymbol s.fw.sum
    else if s.cfg.zeroFallbackEn then signSymbol s.fw.prevSum
    else .zero
  else .zero

/-- The parity verdict `perr` (R219; log entry 11). -/
def parityError (c : Config) (ones : Nat) (par : Bool) : Bool :=
  match c.parityMode with
  | .none => false
  | .even => c.parityCheckEn && decide ((ones + par.toNat) % 2 ≠ 0)
  | .odd => c.parityCheckEn && decide ((ones + par.toNat) % 2 ≠ 1)
  | .ignored => false

/-- Sets `fb_trunc`; the diagnostic is raised at the first dropped entry (R40 (b), R191). -/
def setFbTrunc (s : State) (start : Index) : State :=
  (if s.fbTrunc then s else s.raise .fbTrunc start).setFb s.fb true

/-- Sets `bb_trunc`; the diagnostic is raised at the first dropped byte (R40 (c), R218). -/
def setBbTrunc (s : State) : State :=
  (if s.bb.trunc then s else s.raise .bbTrunc s.bb.start).setBb { s.bb with trunc := true }

/-- Sets `bb_perr`; the diagnostic is raised at the first failed byte (R40 (d), R218). -/
def setBbPerr (s : State) : State :=
  (if s.bb.perr then s else s.raise .perr s.bb.start).setBb { s.bb with perr := true }

end Sys2Proof.Machine
end

