-- ==== Sys2Proof/Machine/Magnitude.lean ====
section
/-! DEFINITION. Component 1, the magnitude table: MAG.LOOKUP (spec/40_magnitude_lut.md). -/

namespace Sys2Proof.Machine

/-- `MemRead(LUT:{i, q}, 3)` (R131). -/
def magLookup (i q : Byte) : Nat := lut (i ++ q)

/-- `MAG.LOOKUP i, q` (R131). -/
def execMagLookup (i q : Byte) (s : State) : Host.Outcome State Fault Refusal :=
  complete (.magLookup i q) s (s.setResult (.magnitude (magLookup i q)))

end Sys2Proof.Machine
end

