-- ==== Sys2Proof/Machine/SlidingWindow.lean ====
section
/-! DEFINITION. Component 2, the sliding window accumulator: SW.INIT, SW.UPDATE (spec/41_sliding_window.md). -/

namespace Sys2Proof.Machine

/-- `SW.INIT` on the selected instance (R141). -/
def swInit (sel : WindowSel) (n : Nat) (v : Int) (s : State) : State :=
  s.setWindow sel (Window.init n v)

/-- `SW.UPDATE` on the selected instance (R142); its result is the new average. -/
def swUpdate (sel : WindowSel) (v : Int) (s : State) : State :=
  s.setWindow sel ((s.window sel).update v)

/-- `SW.INIT w, n, v` (R141). -/
def execSwInit (sel : WindowSel) (n : BitVec 16) (v : BitVec 18) (s : State) : Host.Outcome State Fault Refusal :=
  complete (.swInit sel n v) s ((swInit sel n.toNat v.toInt s).setResult .none)

/-- `SW.UPDATE w, v` (R142). -/
def execSwUpdate (sel : WindowSel) (v : BitVec 18) (s : State) : Host.Outcome State Fault Refusal :=
  complete (.swUpdate sel v) s
    ((swUpdate sel v.toInt s).setResult (.average ((swUpdate sel v.toInt s).window sel).avg))

end Sys2Proof.Machine
end

