-- ==== Sys2Proof/Machine/Demodulator.lean ====
section
/-! DEFINITION. Component 3, the FM demodulator: DEMOD.SAMPLE (spec/42_fm_demodulator.md). IN.BYTE, which starts a
whole step, stands in Pipeline.lean. -/

namespace Sys2Proof.Machine

/-- Steps 1 and 2 of R152: the magnitude into the power window, the cross product into the phase window. -/
def demodWindows (i q : Byte) (s : State) : State :=
  swUpdate .phase (iqCrossProduct s.prevI s.prevQ i q) (swUpdate .power (magLookup i q) s)

/-- Steps 1 to 3 of R152, with the auxiliary pair delivered after the window updates (R118, R159). -/
def demodStore (i q : Byte) (s : State) : State :=
  ((demodWindows i q s).deliverAux ⟨(demodWindows i q s).pw.avg, (demodWindows i q s).fw.avg⟩).setPrev i q

/-- `DEMOD.SAMPLE` (R152): the next state and the Symbol record. -/
def demodSample (i q : Byte) (s : State) : State × SymbolRec :=
  ((demodStore i q s).setN (s.n + 1), ⟨decideSymbol (demodStore i q s), s.n⟩)

/-- `DEMOD.SAMPLE i, q` (R152). -/
def execDemodSample (i q : Byte) (s : State) : Host.Outcome State Fault Refusal :=
  complete (.demodSample i q) s ((demodSample i q s).1.setResult (.symbol (demodSample i q s).2))

end Sys2Proof.Machine
end

