-- ==== Sys2Proof/Machine/Classifier.lean ====
section
/-! DEFINITION. Component 4, the symbol classifier: RUN.SYMBOL, CLS.RUN (spec/43_symbol_classifier.md). -/

namespace Sys2Proof.Machine

/-- `min(run_len + 1, 2^32 - 1)` (R31, R171). -/
def saturatingSucc (l : Length) : Length := BitVec.ofNat 32 (min (l.toNat + 1) (2 ^ 32 - 1))

/-- `RUN.SYMBOL` (R171): the next state and the run that closed, if one did. -/
def runSymbol (r : SymbolRec) (s : State) : State × Option Run :=
  if r.sym = s.run.val then (s.setRun ⟨s.run.val, saturatingSucc s.run.len, s.run.start⟩, none)
  else (s.setRun ⟨r.sym, 1, r.idx⟩, some s.run)

/-- The result record of `RUN.SYMBOL` (R92). -/
def runResult : Option Run → OpResult
  | some r => .run r
  | none => .none

/-- `RUN.SYMBOL sym, idx` (R171). -/
def execRunSymbol (sym : Symbol) (idx : Index) (s : State) : Host.Outcome State Fault Refusal :=
  complete (.runSymbol sym idx) s
    ((runSymbol ⟨sym, idx⟩ s).1.setResult (runResult (runSymbol ⟨sym, idx⟩ s).2))

/-- `ev`, "evaluation" (R174). -/
def evaluation (c : Config) (len : Nat) : Nat := (c.bitRate * (len <<< c.shift)) / c.sampleRate

/-- `bl`, "bitLength" (R174). -/
def bitLength (c : Config) (len : Nat) : Nat := (evaluation c len + clsHalf c.shift) >>> c.shift

/-- `rem`, "remainder", folded (R174). -/
def remainder (c : Config) (len : Nat) : Nat :=
  if clsHalf c.shift < evaluation c len &&& clsMask c.shift then
    clsOne c.shift - (evaluation c len &&& clsMask c.shift)
  else evaluation c len &&& clsMask c.shift

/-- `conf`, "confidence"; smaller is better (R174, R175). -/
def confidence (c : Config) (len : Nat) : Nat :=
  if 1 < bitLength c len then remainder c len / bitLength c len else remainder c len

/-- The acceptance test of a run of non-zero value (R174, R176). -/
def accepts (c : Config) (len : Nat) : Bool :=
  decide (confidence c len ≤ c.acceptThresh ∧ 0 < bitLength c len)

/-- `CLS.RUN` (R174): the next state (only a diagnostic may be added) and the classifier result. -/
def clsRun (r : Run) (s : State) : State × ClsResult :=
  if r.val = .zero then (s, .gap)
  else if accepts s.cfg r.len.toNat then
    (s, .bit ⟨r.val, BitVec.ofNat 32 (bitLength s.cfg r.len.toNat), r.start⟩)
  else (s.raise .lowConf r.start, .drop)

/-- `CLS.RUN val, len, start` (R174). -/
def execClsRun (val : Symbol) (len : Length) (start : Index) (s : State) : Host.Outcome State Fault Refusal :=
  complete (.clsRun val len start) s
    ((clsRun ⟨val, len, start⟩ s).1.setResult (.classified (clsRun ⟨val, len, start⟩ s).2))

end Sys2Proof.Machine
end

