-- ==== Sys2Proof/Machine/Deserializer.lean ====
section
/-! DEFINITION. Component 6, the UART-style deserializer: SER.FRAME, SER.BIT (spec/45_uart_deserializer.md). -/

namespace Sys2Proof.Machine

/-- State `WAIT` (R213). -/
def serWait (b : Level) (s : State) : State :=
  match b with
  | .low => s.setSer ⟨.data 0, 0, 0, false⟩
  | .high => s

/-- The accumulator after data bit `i` (R214). -/
def shiftIn (lsbFirst : Bool) (i : Nat) (acc : Byte) (bit : Bool) : Byte :=
  if lsbFirst then acc ||| (BitVec.ofNat 8 bit.toNat <<< i) else (acc <<< 1) ||| BitVec.ofNat 8 bit.toNat

/-- The state after data bit `i` (R214). -/
def afterData (c : Config) (i : Nat) : SerState :=
  if i + 1 < c.dataBits then .data (i + 1)
  else if c.parityMode ≠ .none then .parity
  else .stop 0

/-- State `DATA(i)` (R214). -/
def serData (i : Nat) (b : Level) (s : State) : State :=
  s.setSer { s.ser with
    state := afterData s.cfg i
    acc := shiftIn s.cfg.lsbFirst i s.ser.acc (levelBit b)
    ones := s.ser.ones + (levelBit b).toNat }

/-- State `PARITY` (R216). -/
def serParity (b : Level) (s : State) : State :=
  s.setSer { s.ser with state := .stop 0, par := levelBit b }

/-- Storing a byte (R218). -/
def storeByte (value : Byte) (perr : Bool) (s : State) : State :=
  let s1 := if s.bbLen < s.cfg.byteCap then s.setBb { s.bb with bytes := s.bb.bytes ++ [value] } else setBbTrunc s
  if perr then setBbPerr s1 else s1

/-- The stop bits end and the byte is stored (R217, last branch). -/
def emitByte (s : State) : State × SerResult :=
  let perr := parityError s.cfg s.ser.ones s.ser.par
  ((storeByte s.ser.acc perr s).setSer { s.ser with state := .wait }, .byte s.ser.acc perr)

/-- State `STOP(j)` (R217). -/
def serStop (j : Nat) (b : Level) (s : State) : State × SerResult :=
  match b with
  | .low => (s.setSer { s.ser with state := .wait }, .ferr)
  | .high =>
    if j + 1 < s.cfg.stopBits then (s.setSer { s.ser with state := .stop (j + 1) }, .none)
    else emitByte s

/-- `SER.BIT` (R212): the next state and the result of the bit event. -/
def serBit (b : Level) (s : State) : State × SerResult :=
  match s.ser.state with
  | .wait => (serWait b s, .none)
  | .data i => (serData i b s, .none)
  | .parity => (serParity b s, .none)
  | .stop j => serStop j b s

/-- `SER.BIT b` (R212). -/
def execSerBit (b : Level) (s : State) : Host.Outcome State Fault Refusal :=
  complete (.serBit b) s ((serBit b s).1.setResult (.serBit (serBit b s).2))

/-- "repeat e.len times: call SER.BIT", left at the first framing error (R211 step 2). -/
def serRun (b : Level) : Nat → State → State × FrameResult
  | 0, s => (s, .ok)
  | k + 1, s =>
    match serBit b s with
    | (s', .ferr) => (s', .ferr)
    | (s', .none) => serRun b k s'
    | (s', .byte _ _) => serRun b k s'

/-- The entries of the suffix in order, left at the first framing error (R211 step 2). -/
def serEntries : List ClassifiedBit → State → State × FrameResult
  | [], s => (s, .ok)
  | e :: es, s =>
    match serRun (levelOf e.val) e.len.toNat s with
    | (s', .ferr) => (s'.raise .ferr e.start, .ferr)
    | (s', .ok) => serEntries es s'

/-- A fresh state machine and an empty byte buffer (R211 step 1). -/
def serStart (fstart : Index) (s : State) : State :=
  (s.setSer Serial.clear).setBb (ByteBuffer.empty fstart)

/-- A character left unfinished raises `E_PARTIAL` (R211 step 3, R221). -/
def serFinish (s : State) : State :=
  if s.ser.state = .wait then s else s.raise .partialChar s.bb.start

/-- `SER.FRAME` (R211): the next state and `OK` or `FERR`. With `ds ≥ fb_len` the suffix is empty (log entry 12). -/
def serFrame (ds : Nat) (fstart : Index) (s : State) : State × FrameResult :=
  match serEntries (s.fb.drop ds) (serStart fstart s) with
  | (s', .ferr) => (s', .ferr)
  | (s', .ok) => (serFinish s', .ok)

/-- `SER.FRAME ds, fstart` (R211). -/
def execSerFrame (ds : BitVec 16) (fstart : Index) (s : State) : Host.Outcome State Fault Refusal :=
  complete (.serFrame ds fstart) s
    ((serFrame ds.toNat fstart s).1.setResult (.serFrame (serFrame ds.toNat fstart s).2))

end Sys2Proof.Machine
end

