-- ==== Sys2Proof/Machine/FieldExtractor.lean ====
section
/-! DEFINITION. Component 7, the protocol field extractor: APP.DECODE, APP.DIGIT (spec/46_field_extractor.md). -/

namespace Sys2Proof.Machine

/-- `APP.DIGIT` (R234): `MemRead(DIG:b, 4)`. -/
def appDigit (b : Byte) (s : State) : Nat := digitCode s.cfg.digitPatterns b

/-- `APP.DIGIT b` (R234). -/
def execAppDigit (b : Byte) (s : State) : Host.Outcome State Fault Refusal :=
  complete (.appDigit b) s (s.setResult (.digit (appDigit b s)))

/-- Signature and trailer of one `KND` record match (R231 step 3). -/
def kindMatches (b : ByteBuffer) (r : KindRec) : Bool :=
  readBb b 0 == r.sig0 && readBb b 1 == r.sig1 && readBb b (b.bytes.length - 1) == r.trailer

/-- The first matching record of `KND` gives the kind (R231 step 3). -/
def signatureKind (c : Config) (b : ByteBuffer) : FrameKind :=
  match c.kinds.find? (kindMatches b) with
  | some r => kindOfCode r.kind
  | none => .unknown

/-- Some `FMAP` offset lies beyond the frame (R231 step 4, R232). -/
def tooShortForMap (c : Config) (b : ByteBuffer) : Bool :=
  c.fieldMap.any fun f => decide (b.bytes.length ≤ f.offset.toNat)

/-- The kind after step 4 of R231. -/
def frameKind (c : Config) (b : ByteBuffer) : FrameKind :=
  if signatureKind c b = .score ∧ tooShortForMap c b then .unknown else signatureKind c b

/-- Field extraction for one `FMAP` record (R233). -/
def extractField (c : Config) (b : ByteBuffer) (f : FieldRec) : FieldValue :=
  if f.ftype = 0 then ⟨f.fieldId, BitVec.ofNat 8 (digitCode c.digitPatterns (readBb b f.offset.toNat))⟩
  else ⟨f.fieldId, readBb b f.offset.toNat &&& f.mask⟩

/-- The FRAME record of step 7 of R231. -/
def frameEvent (s : State) : FrameEvent where
  kind := frameKind s.cfg s.bb
  fbTrunc := s.fbTrunc
  bbTrunc := s.bb.trunc
  bbPerr := s.bb.perr
  start := s.bb.start
  bytes := s.bb.bytes
  fields := if frameKind s.cfg s.bb = .score then s.cfg.fieldMap.map (extractField s.cfg s.bb) else []

/-- Steps 5 to 7 of R231: what is raised and emitted for a frame of more than three bytes. -/
def reportFrame (s : State) : State × Option FrameEvent :=
  if frameKind s.cfg s.bb = .unknown then
    if s.cfg.dumpUnknownEn then ((s.raise .malformed s.bb.start).emit (frameEvent s), some (frameEvent s))
    else (s.raise .malformed s.bb.start, none)
  else (s.emit (frameEvent s), some (frameEvent s))

/-- `APP.DECODE` (R231): the next state and the FRAME event, if there is one. -/
def appDecode (abort : Bool) (s : State) : State × Option FrameEvent :=
  if abort then (s, none)
  else if s.bbLen ≤ 3 then (s.raise .short s.bb.start, none)
  else reportFrame s

/-- The result record of an operation that may emit a FRAME event (R92). -/
def eventResult : Option FrameEvent → OpResult
  | some e => .frame e
  | none => .none

/-- `APP.DECODE a` (R231). -/
def execAppDecode (abort : Bool) (s : State) : Host.Outcome State Fault Refusal :=
  complete (.appDecode abort) s ((appDecode abort s).1.setResult (eventResult (appDecode abort s).2))

end Sys2Proof.Machine
end

