-- ==== Sys2Proof/Machine/Synchronizer.lean ====
section
/-! DEFINITION. Component 5, the frame synchronizer: SYNC.APPEND, SYNC.GAP (spec/44_frame_synchronizer.md). -/

namespace Sys2Proof.Machine

/-- `SYNC.APPEND` (R191). -/
def syncAppend (e : ClassifiedBit) (s : State) : State :=
  if s.fbLen < s.cfg.fbCap then s.setFb (s.fb ++ [e]) s.fbTrunc else setFbTrunc s e.start

/-- `SYNC.APPEND val, len, start` (R191). -/
def execSyncAppend (val : Symbol) (len : Length) (start : Index) (s : State) : Host.Outcome State Fault Refusal :=
  complete (.syncAppend val len start) s ((syncAppend ⟨val, len, start⟩ s).setResult .none)

/-- The pattern stands at offset `k`: every element equal in value and length (R193, R194). -/
def patternAt (pat : List PatElem) (fb : List ClassifiedBit) (k : Nat) : Bool :=
  ((fb.drop k).take pat.length).map ClassifiedBit.key == pat

/-- `SYNC.MATCH` (R194): the first offset at which the pattern stands. -/
def syncMatch (pat : List PatElem) (fb : List ClassifiedBit) : Option Nat :=
  if fb.length < pat.length then none
  else (List.range (fb.length - pat.length + 1)).find? (patternAt pat fb)

/-- `fb[k].start` (R195, R197); `k` is below `fb_len` wherever it is used. -/
def startAt (fb : List ClassifiedBit) (k : Nat) : Index := ((fb[k]?).map ClassifiedBit.start).getD 0

/-- Whether the frame attempt is aborted (R220). -/
def isFerr : FrameResult → Bool
  | .ferr => true
  | .ok => false

/-- The frame attempt for a match at `k`: the serial decoder on the suffix, then the frame decoder (R195 step 2). -/
def frameAttempt (k : Nat) (s : State) : State × Option FrameEvent :=
  let r := serFrame (k + s.cfg.syncPattern.length) (startAt s.fb k) s
  appDecode (isFerr r.2) r.1

/-- Steps 1 and 2 of R195. -/
def gapAttempt (s : State) : State × Option FrameEvent :=
  match syncMatch s.cfg.syncPattern s.fb with
  | some k => frameAttempt k s
  | none => (if 0 < s.fbLen then s.raise .noSync (startAt s.fb 0) else s, none)

/-- `SYNC.GAP` (R195): whatever happened, the buffer is emptied. -/
def syncGap (s : State) : State × Option FrameEvent :=
  ((gapAttempt s).1.setFb [] false, (gapAttempt s).2)

/-- `SYNC.GAP` (R195). -/
def execSyncGap (s : State) : Host.Outcome State Fault Refusal :=
  complete .syncGap s ((syncGap s).1.setResult (eventResult (syncGap s).2))

end Sys2Proof.Machine
end

