-- ==== Sys2Proof/Machine/Pipeline.lean ====
section
/-! DEFINITION. The wiring of the stages (spec/47_pipeline_top.md R250) and IN.BYTE (spec/42_fm_demodulator.md R150). -/

namespace Sys2Proof.Machine

/-- Step 5 of R250: the classifier result triggers the frame buffer's operation. -/
def afterClassify (c : ClsResult) (s : State) : State :=
  match c with
  | .bit cb => syncAppend cb s
  | .gap => (syncGap s).1
  | .drop => s

/-- Steps 3 to 5 of R250: a closed run is classified. -/
def afterRun (r : Option Run) (s : State) : State :=
  match r with
  | none => s
  | some run => afterClassify (clsRun run s).2 (clsRun run s).1

/-- `STEP(i, q)` (R250): the processing of one IQ sample. -/
def pipelineStep (i q : Byte) (s : State) : State :=
  let d := demodSample i q s
  let r := runSymbol d.2 d.1
  afterRun r.2 r.1

/-- `IN.BYTE` (R150). -/
def inByte (b : Byte) (s : State) : State :=
  if s.diPhase then pipelineStep s.diHold b (s.setDi false s.diHold) else s.setDi true b

/-- `IN.BYTE b` (R150). -/
def execInByte (b : Byte) (s : State) : Host.Outcome State Fault Refusal :=
  complete (.inByte b) s ((inByte b s).setResult .none)

end Sys2Proof.Machine
end

