-- ==== Sys2Proof/Machine/System.lean ====
section
/-! DEFINITION. RESET (spec/70_reset_and_hazards.md R300), and the block as a function of its configuration and input
(spec/47_pipeline_top.md R254). -/

namespace Sys2Proof.Machine

/-- Steps 1 to 7 of R300. The pins, the streams and the events already delivered are the host's (log entry 9). -/
def resetBlock (s : State) : State :=
  let s1 := { s with cfg := s.cfgIn }
  let s2 := swInit .phase s1.cfg.phWinN s1.cfg.phWinInit (swInit .power s1.cfg.pwrWinN s1.cfg.pwrWinInit s1)
  let s3 := (((s2.setPrev 128 128).setN 0).setDi false 0).setRun Run.atReset
  ((s3.setFb [] false).setSer Serial.clear).setBb (ByteBuffer.empty 0)

/-- `RESET` (R300): refused if the configuration inputs are illegal (R11). -/
def execReset (s : State) : Host.Outcome State Fault Refusal :=
  if s.cfgIn.legal then .next ((resetBlock s).setResult .none) else .refused .illegalConfig

/-- The fold of IN.BYTE over input bytes (R254). -/
def takeBytes (bytes : List Byte) (s : State) : State := bytes.foldl (fun t b => inByte b t) s

/-- `run(cfg, bytes)`: the final state, the FRAME events and the DIAG events; no block, no run, for an illegal
configuration (R11, R254, R256). -/
def run (c : Config) (bytes : List Byte) : Option (State × List FrameEvent × List DiagEvent) :=
  if c.legal then
    some (takeBytes bytes (State.resetWith c), (takeBytes bytes (State.resetWith c)).frames,
      (takeBytes bytes (State.resetWith c)).diags)
  else none

end Sys2Proof.Machine
end

