-- ==== Sys2Proof/Machine/Dispatch.lean ====
section
/-! DEFINITION. One arm per operation of spec/opcode_table.json. -/

namespace Sys2Proof.Machine

def exec (i : Instr) (s : State) : Host.Outcome State Fault Refusal :=
  match i with
  | .reset => Sys2Proof.Machine.execReset s
  | .inByte b => Sys2Proof.Machine.execInByte b s
  | .demodSample i1 q => Sys2Proof.Machine.execDemodSample i1 q s
  | .magLookup i1 q => Sys2Proof.Machine.execMagLookup i1 q s
  | .swInit w n v => Sys2Proof.Machine.execSwInit w n v s
  | .swUpdate w v => Sys2Proof.Machine.execSwUpdate w v s
  | .runSymbol sym idx => Sys2Proof.Machine.execRunSymbol sym idx s
  | .clsRun val len start => Sys2Proof.Machine.execClsRun val len start s
  | .syncAppend val len start => Sys2Proof.Machine.execSyncAppend val len start s
  | .syncGap => Sys2Proof.Machine.execSyncGap s
  | .serFrame ds fstart => Sys2Proof.Machine.execSerFrame ds fstart s
  | .serBit b => Sys2Proof.Machine.execSerBit b s
  | .appDecode abort => Sys2Proof.Machine.execAppDecode abort s
  | .appDigit b => Sys2Proof.Machine.execAppDigit b s

end Sys2Proof.Machine
end

