-- ==== Sys2Proof/Machine/Fetch.lean ====
section
/-! DEFINITION. Which operation the block performs next. The block fetches no instructions (spec/10_state.md R36): on its
pins an operation is RESET while `rst` is high and IN.BYTE for each byte taken (spec/47_pipeline_top.md R252); the other
operations are driven one at a time only by a stage test's operation words (spec/30_encoding.md R90, R91). And what a step
is when nothing is offered. -/

namespace Sys2Proof.Machine

/-- What the next step does. -/
inductive Fetched
  /-- an operation, in the state it finds -/
  | run (i : Instr) (s : State)
  /-- an operation word that decodes to *invalid* -/
  | invalid (e : DecodeError)
  /-- nothing is offered: nothing further happens (R256) -/
  | idle
  deriving DecidableEq, Repr

/-- An operation word is at the front of a stage test's sequence. -/
def fetchWord (s : State) : Fetched :=
  match decode s.opBits with
  | .ok (i, rest) => .run i (s.setOpBits rest)
  | .error e => .invalid e

/-- A byte is taken from stream `IN` (R61), or nothing is offered (R256). -/
def fetchByte (s : State) : Fetched :=
  match s.inBytes with
  | b :: rest => .run (.inByte b) (s.setInBytes rest)
  | [] => .idle

/-- In the mode *reset* the operation is RESET and nothing is consumed (R287, R300); in the mode *run* a stage test's
word goes first, then the next byte of `IN` (log entries 3, 13, 14). -/
def fetch (s : State) : Fetched :=
  if s.rst then .run .reset s
  else if s.opBits.isEmpty then fetchByte s
  else fetchWord s

/-- Nothing is offered and nothing further happens (R256, log entry 13); a block with an illegal configuration has no
behaviour at all, this one included (R11). -/
def idleStep (s : State) : Host.Outcome State Fault Refusal :=
  if s.cfg.legal then .next s else .refused .illegalConfig

end Sys2Proof.Machine
end

