-- ==== Sys2Proof/Machine/Step.lean ====
section
/-! DEFINITION. One step of the machine, and the placing of an operation word where the next step finds it. -/

namespace Sys2Proof.Machine

/-- One operation (R6, R252), or nothing when nothing is offered (R256). -/
def step (s : State) : Host.Outcome State Fault Refusal :=
  match fetch s with
  | .run i s' => exec i s'
  | .invalid e => .refused (.invalidWord e)
  | .idle => idleStep s

/-- The operation word of a table row, offered as a stage test's next word in the mode *run* (log entry 3). -/
def State.withFetchWord (s : State) (nbits w : Nat) : State :=
  { s with rst := false, opBits := tableBits nbits w }

end Sys2Proof.Machine
end

