-- ==== Sys2Proof/Machine/Records.lean ====
section
/-! DEFINITION. The bit layouts of the records between the stages and at the ports, most significant bit first
(spec/30_encoding.md R96 to R103, R108 to R113, R118; spec/10_state.md R36, R46). No operation reads them: they are the
words that the ports `evt_data`, `diag_data`, `aux_pwr`, `aux_ph` of spec/47_pipeline_top.md R252 carry, and the entry
layouts of the memories of spec/20_memory.md R60. -/

namespace Sys2Proof.Machine

/-- Symbol record, 66 bits (R97). -/
def symbolRecBits (r : SymbolRec) : List Bool := fieldBits (symbolCode r.sym) ++ fieldBits r.idx

/-- Run record, 98 bits (R98). -/
def runBits (r : Run) : List Bool := fieldBits (symbolCode r.val) ++ fieldBits r.len ++ fieldBits r.start

/-- ClassifiedBit record, an `FB` entry, 98 bits (R99). -/
def classifiedBitBits (e : ClassifiedBit) : List Bool :=
  fieldBits (symbolCode e.val) ++ fieldBits e.len ++ fieldBits e.start

/-- SyncPattern element, a `PAT` entry, 34 bits (R46, R101). -/
def patElemBits (p : PatElem) : List Bool := fieldBits (symbolCode p.val) ++ fieldBits p.len

/-- Serial decoder result, 10 bits `{ferr, perr, b}` (R103); `NONE` has no word. -/
def serResultBits : SerResult → Option (List Bool)
  | .none => none
  | .byte b perr => some (false :: perr :: fieldBits b)
  | .ferr => some (true :: false :: fieldBits (0 : Byte))

/-- `ser_state` codes (R36). -/
def serStateCode : SerState → BitVec 4
  | .wait => 0
  | .data i => BitVec.ofNat 4 (1 + i)
  | .parity => 9
  | .stop j => BitVec.ofNat 4 (10 + j)

/-- `PARITY_MODE` codes (R46). -/
def parityModeCode : ParityMode → BitVec 2
  | .none => 0
  | .even => 1
  | .odd => 2
  | .ignored => 3

/-- `PWR_THRESH` on 4 bits signed (R46). -/
def pwrThreshCode (c : Config) : BitVec 4 := BitVec.ofInt 4 c.pwrThresh

/-- `KND` entry, 26 bits (R46). -/
def kindRecBits (r : KindRec) : List Bool :=
  fieldBits r.kind ++ fieldBits r.sig0 ++ fieldBits r.sig1 ++ fieldBits r.trailer

/-- `FMAP` entry, 40 bits (R110). -/
def fieldRecBits (f : FieldRec) : List Bool :=
  fieldBits f.fieldId ++ fieldBits f.ftype ++ fieldBits f.offset ++ fieldBits f.mask

/-- Frame kind codes (R108). -/
def kindCode : FrameKind → BitVec 2
  | .unknown => 0
  | .score => 1
  | .clock => 2

/-- `DIG` entry, 4 bits (R109). -/
def digitBits (d : Nat) : List Bool := bitsOfNat 4 d

/-- Field value, 16 bits (R111). -/
def fieldValueBits (v : FieldValue) : List Bool := fieldBits v.fieldId ++ fieldBits v.value

/-- FRAME event record, port `evt_data` (R112). -/
def frameBits (e : FrameEvent) : List Bool :=
  fieldBits (kindCode e.kind) ++ [e.fbTrunc, e.bbTrunc, e.bbPerr] ++ fieldBits e.start ++
    bitsOfNat 16 e.bytes.length ++ (e.bytes.map fieldBits).flatten ++
    bitsOfNat 8 e.fields.length ++ (e.fields.map fieldValueBits).flatten

/-- The condition codes (R271). -/
def diagCodeNumber : DiagCode → BitVec 4
  | .lowConf => 1
  | .fbTrunc => 2
  | .noSync => 3
  | .ferr => 4
  | .partialChar => 5
  | .bbTrunc => 6
  | .perr => 7
  | .short => 8
  | .malformed => 9

/-- DIAG event record, port `diag_data`, 68 bits (R113). -/
def diagBits (e : DiagEvent) : List Bool := fieldBits (diagCodeNumber e.code) ++ fieldBits e.idx

/-- Auxiliary output record, ports `aux_pwr` and `aux_ph`, 20 bits (R118). -/
def auxBits (a : AuxSample) : List Bool := fieldBits (BitVec.ofInt 3 a.pwr) ++ fieldBits (BitVec.ofInt 17 a.ph)

end Sys2Proof.Machine
end

