-- ==== Sys2Proof/Safety.lean ====
section
/-! DEFINITION. What claims about the machine are stated in: the invariant of a running block (spec/10_state.md R23 to
R26, R30 to R36; spec/20_memory.md R68) and the serial character on the line (spec/30_encoding.md R104, R106). -/

namespace Sys2Proof.Machine

/-- The window invariant (R26), with the ranges of its registers (R23, R25). -/
def Window.wf (sel : WindowSel) (w : Window) : Prop :=
  1 ≤ w.size ∧ w.size ≤ 65535 ∧ w.pos < w.size ∧
  (∀ x ∈ w.buf, sel.lo ≤ x ∧ x ≤ sel.hi) ∧
  w.sum = w.buf.sum ∧ w.avg = w.sum.tdiv w.size ∧
  sel.lo * w.size ≤ w.prevSum ∧ w.prevSum ≤ sel.hi * w.size

/-- Only the run open at reset has length 0 (R98, R172). -/
def Run.wf (r : Run) : Prop := r.len = 0 → r = Run.atReset

/-- The frame buffer holds ClassifiedBit records, at most `FB_CAP` of them, and the flag is set only when it is full
(R32, R99). -/
def fbWf (s : State) : Prop :=
  s.fb.length ≤ s.cfg.fbCap ∧ (s.fbTrunc = true → s.fb.length = s.cfg.fbCap) ∧
  ∀ e ∈ s.fb, e.val ≠ .zero ∧ e.len ≠ 0

/-- The serial registers in each state: the state exists in the configuration (R36), and the accumulator and the ones
counter hold no more than the data bits received (R33, R214; D38). -/
def Serial.wf (c : Config) (r : Serial) : Prop :=
  match r.state with
  | .wait => r.ones ≤ c.dataBits ∧ r.acc.toNat < 2 ^ c.dataBits
  | .data i => i < c.dataBits ∧ r.ones ≤ i ∧ r.acc.toNat < 2 ^ i
  | .parity => c.parityMode ≠ .none ∧ r.ones ≤ c.dataBits ∧ r.acc.toNat < 2 ^ c.dataBits
  | .stop j => j < c.stopBits ∧ r.ones ≤ c.dataBits ∧ r.acc.toNat < 2 ^ c.dataBits

/-- The byte buffer: capacity, truncation flag, and bytes of `DATA_BITS` bits (R34, R68; D38). -/
def ByteBuffer.wf (c : Config) (b : ByteBuffer) : Prop :=
  b.bytes.length ≤ c.byteCap ∧ (b.trunc = true → b.bytes.length = c.byteCap) ∧
  ∀ x ∈ b.bytes, x.toNat < 2 ^ c.dataBits

/-- A FRAME event fits its record and has fields only if it is of kind `score` (R112, R231, R238). -/
def FrameEvent.wf (e : FrameEvent) : Prop :=
  3 < e.bytes.length ∧ e.bytes.length < 2 ^ 16 ∧ e.fields.length < 2 ^ 8 ∧ (e.kind ≠ .score → e.fields = [])

/-- An auxiliary pair fits its ports (R118). -/
def AuxSample.wf (a : AuxSample) : Prop := 0 ≤ a.pwr ∧ a.pwr ≤ 5 ∧ -32640 ≤ a.ph ∧ a.ph ≤ 32640

/-- The invariant of a constructed block. -/
structure BlockInv (s : State) : Prop where
  legal : s.cfg.legal = true
  pw : s.pw.wf .power
  fw : s.fw.wf .phase
  run : s.run.wf
  fb : fbWf s
  ser : s.ser.wf s.cfg
  bb : s.bb.wf s.cfg
  frames : ∀ e ∈ s.frames, e.wf
  aux : ∀ a ∈ s.aux, a.wf

/-- The bit event of a line bit. -/
def levelOfBit (b : Bool) : Level := if b then .high else .low

/-- The data bits of a byte in the order of the line: most significant first unless `LSB_FIRST` (R104). -/
def dataLevels (c : Config) (b : Byte) : List Level :=
  if c.lsbFirst then (List.range c.dataBits).map fun k => levelOfBit (b.getLsbD k)
  else (List.range c.dataBits).map fun k => levelOfBit (b.getLsbD (c.dataBits - 1 - k))

/-- A serial character on the line: a low start bit, the data bits, a parity bit if there is one, high stop bits (R104). -/
def charLevels (c : Config) (b : Byte) (par : Bool) : List Level :=
  List.replicate Config.startBits .low ++ dataLevels c b ++
    (if c.parityMode = .none then [] else [levelOfBit par]) ++ List.replicate c.stopBits .high

/-- The number of 1 bits among the data bits of a byte. -/
def onesOf (c : Config) (b : Byte) : Nat := ((List.range c.dataBits).filter fun k => b.getLsbD k).length

/-- Feeds bit events one at a time and collects their results. -/
def feedBits : List Level → State → State × List SerResult
  | [], s => (s, [])
  | b :: bs, s => ((feedBits bs (serBit b s).1).1, (serBit b s).2 :: (feedBits bs (serBit b s).1).2)

/-- The bit events a list of frame buffer entries stands for (R106). -/
def expand (es : List ClassifiedBit) : List Level :=
  es.flatMap fun e => List.replicate e.len.toNat (levelOf e.val)

end Sys2Proof.Machine
end

