-- ==== Sys2Proof/Certificates/Slice0/Obligations.lean ====
section
/-! DEFINITION. The statements for the provers, from the numbered rules of spec/. A frame is written as one equation: the
next state is the old one with the named fields changed, so every register, flag and memory not named is unchanged. -/

open Sys2Proof Sys2Proof.Machine

/-! ### Operation words -/

/-- R91, R92: decoding an encoded operation gives it back, with every operand, and leaves the rest of the sequence. -/
def Obligations.DecodeEncodeRoundTrip : Prop :=
  ∀ (i : Instr) (rest : List Bool), i.wellFormed = true → decode (encode i ++ rest) = .ok (i, rest)

/-- R91, R92, R114: whatever decodes is the word of a well-formed operation, so each word has one meaning. -/
def Obligations.DecodedWordsReencode : Prop :=
  ∀ (l rest : List Bool) (i : Instr), decode l = .ok (i, rest) → i.wellFormed = true ∧ encode i ++ rest = l

/-- R114 (a) to (e): the invalid words are rejected, whatever follows. -/
def Obligations.InvalidWordsRejected : Prop :=
  (∀ op ∈ [14#4, 15#4], ∀ rest, decode (fieldBits op ++ rest) = .error .reservedOpid) ∧
  (∀ op ∈ [6#4, 7#4, 8#4], ∀ rest, decode (fieldBits op ++ (fieldBits 0b10#2 ++ rest)) = .error .reservedSymbol) ∧
  (∀ val len start rest, val = .zero ∨ len = 0 →
    decode (encode (.syncAppend val len start) ++ rest) = .error (.operand .notClassifiedBit)) ∧
  (∀ w v rest, decode (encode (.swInit w 0 v) ++ rest) = .error (.operand .windowSizeZero)) ∧
  (∀ w n v rest, n ≠ 0 →
    (w = .power ∧ (v.toInt < 0 ∨ 5 < v.toInt)) ∨ (w = .phase ∧ (v.toInt < -32640 ∨ 32640 < v.toInt)) →
    decode (encode (.swInit w n v) ++ rest) = .error (.operand .windowValueRange)) ∧
  (∀ w v rest,
    (w = .power ∧ (v.toInt < 0 ∨ 5 < v.toInt)) ∨ (w = .phase ∧ (v.toInt < -32640 ∨ 32640 < v.toInt)) →
    decode (encode (.swUpdate w v) ++ rest) = .error (.operand .windowValueRange))

/-- Words of spec/95_test_vectors.md V-ENC, one or more of each of the nine formats of R92, each read at its width. -/
def Obligations.SpecWordsDecode : Prop :=
  decode (bitsOfNat 4 0x0) = .ok (.reset, []) ∧
  decode (bitsOfNat 12 0x1E4) = .ok (.inByte 0xE4, []) ∧
  decode (bitsOfNat 20 0x2E480) = .ok (.demodSample 228 128, []) ∧
  decode (bitsOfNat 39 0x2400080000) = .ok (.swInit .phase 2 0, []) ∧
  decode (bitsOfNat 23 0x2FE700) = .ok (.swUpdate .phase (-6400), []) ∧
  decode (bitsOfNat 70 0x190000000000000011) = .ok (.runSymbol .pos 17, []) ∧
  decode (bitsOfNat 102 0x1F000000340000000000000410) = .ok (.clsRun .neg 52 1040, []) ∧
  decode (bitsOfNat 84 0xA00020000000000000003) = .ok (.serFrame 2 3, []) ∧
  decode (bitsOfNat 5 0x17) = .ok (.serBit .high, [])

/-! ### Component 1: the magnitude table -/

/-- R130: the entry at `{I_raw, Q_raw}` is `floor(ln(mag))` if `mag > 1.0`, else 0. -/
def Obligations.MagnitudeTableIsFlooredLog : Prop :=
  ∀ i q : Byte,
    let mag := Real.sqrt ((centered i : ℝ) ^ 2 + (centered q : ℝ) ^ 2)
    (1 < mag → (lut (i ++ q) : ℤ) = ⌊Real.log mag⌋) ∧ (¬ 1 < mag → lut (i ++ q) = 0)

/-- R131 with the table of R132: the magnitude by the ranges of `m2`, and nothing else changes. -/
def Obligations.MagLookupGivesRange : Prop :=
  ∀ (i q : Byte) (s : State), s.cfg.legal = true →
    let m2 : Int := ((i.toNat : Int) - 128) ^ 2 + ((q.toNat : Int) - 128) ^ 2
    exec (.magLookup i q) s = .next { s with result := .magnitude (
      if m2 ≤ 7 then 0 else if m2 ≤ 54 then 1 else if m2 ≤ 403 then 2 else if m2 ≤ 2980 then 3
      else if m2 ≤ 22026 then 4 else 5) }

/-- R133 (a) to (d): the table is symmetric under sign flips (for raw values other than 0, whose negation is in range)
and under exchange, non-decreasing in `m2`, and at most 5. -/
def Obligations.MagnitudeTableLaws : Prop :=
  (∀ i q : Byte, i ≠ 0 → q ≠ 0 →
    lut (-i ++ q) = lut (i ++ q) ∧ lut (i ++ -q) = lut (i ++ q) ∧ lut (-i ++ -q) = lut (i ++ q)) ∧
  (∀ i : Byte, i ≠ 0 → centered (-i) = -centered i) ∧
  (∀ i q : Byte, lut (i ++ q) = lut (q ++ i)) ∧
  (∀ i q i' q' : Byte, centered i ^ 2 + centered q ^ 2 ≤ centered i' ^ 2 + centered q' ^ 2 →
    lut (i ++ q) ≤ lut (i' ++ q')) ∧
  (∀ a : BitVec 16, lut a ≤ 5)

/-! ### Component 2: the sliding window -/

/-- R141: SW.INIT fills the window and touches nothing else. -/
def Obligations.SwInitFillsWindow : Prop :=
  ∀ (w : WindowSel) (n : BitVec 16) (v : BitVec 18) (s : State),
    (Instr.swInit w n v).wellFormed = true → s.cfg.legal = true →
    ∃ t, exec (.swInit w n v) s = .next t ∧
      (t.window w).buf = List.replicate n.toNat v.toInt ∧ (t.window w).pos = 0 ∧
      (t.window w).sum = n.toNat * v.toInt ∧ (t.window w).prevSum = n.toNat * v.toInt ∧ (t.window w).avg = v.toInt ∧
      (w = .power → t = { s with pw := t.pw, result := .none }) ∧
      (w = .phase → t = { s with fw := t.fw, result := .none })

/-- R142: SW.UPDATE evicts the oldest value, adds the new one, and yields the truncated average. That truncation is toward
zero is the spec's own general-knowledge mark G2 (log entry 10, PRESUMED). -/
def Obligations.SwUpdateSlidesWindow : Prop :=
  ∀ (w : WindowSel) (v : BitVec 18) (s : State) (old : Int),
    (Instr.swUpdate w v).wellFormed = true → s.cfg.legal = true → (s.window w).buf[(s.window w).pos]? = some old →
    ∃ t, exec (.swUpdate w v) s = .next t ∧
      (t.window w).buf = (s.window w).buf.set (s.window w).pos v.toInt ∧
      (t.window w).pos = ((s.window w).pos + 1) % (s.window w).buf.length ∧
      (t.window w).prevSum = (s.window w).sum ∧
      (t.window w).sum = (s.window w).sum - old + v.toInt ∧
      (t.window w).avg = ((s.window w).sum - old + v.toInt).tdiv (s.window w).buf.length ∧
      (w = .power → t = { s with pw := t.pw, result := .average t.pw.avg }) ∧
      (w = .phase → t = { s with fw := t.fw, result := .average t.fw.avg })

/-- R144 (a) to (d): the sum after updates is that of the most recent inputs, before that the initial values count, each
update changes it by new minus old, and the invariant of R26 holds throughout, its `div` truncating toward zero (the
spec's mark G2, log entry 10). -/
def Obligations.SlidingWindowLaws : Prop :=
  ∀ (n : Nat) (v : Int) (xs : List Int), 1 ≤ n →
    let w := xs.foldl Window.update (Window.init n v)
    (n ≤ xs.length → w.sum = (xs.drop (xs.length - n)).sum) ∧
    (xs.length ≤ n → w.sum = xs.sum + ((n : Int) - xs.length) * v) ∧
    (∀ x old, w.buf[w.pos]? = some old → (w.update x).sum - (w.update x).prevSum = x - old) ∧
    w.buf.length = n ∧ w.pos < n ∧ w.sum = w.buf.sum ∧ w.avg = w.sum.tdiv n

/-- R143: a window of one entry passes its input through. -/
def Obligations.WindowOfOnePassesThrough : Prop :=
  ∀ (v x : Int) (xs : List Int),
    let w := xs.foldl Window.update (Window.init 1 v)
    (w.update x).sum = x ∧ (w.update x).avg = x ∧ (w.update x).prevSum = xs.getLast?.getD v

/-! ### Component 3: the demodulator -/

/-- R94: centering subtracts 128, which is the sign extension of the byte with its top bit inverted. -/
def Obligations.CenteringIsSignExtendedXor : Prop :=
  ∀ b : Byte, centered b = (b.toNat : Int) - 128 ∧ centered b = (b ^^^ 0x80).toInt

/-- R153: the cross product, its range, and that the extremes are reached. -/
def Obligations.CrossProductRange : Prop :=
  (∀ pi pq i q : Byte,
    iqCrossProduct pi pq i q =
      ((pi.toNat : Int) - 128) * ((q.toNat : Int) - 128) - ((pq.toNat : Int) - 128) * ((i.toNat : Int) - 128) ∧
    -32640 ≤ iqCrossProduct pi pq i q ∧ iqCrossProduct pi pq i q ≤ 32640) ∧
  iqCrossProduct 0 255 0 0 = 32640 ∧ iqCrossProduct 0 0 0 255 = -32640

/-- R152: DEMOD.SAMPLE, every register it writes and the decision of step 4; nothing else changes but the auxiliary pair
and the result. R159 gives the pair "if present"; that it is always delivered is the model's choice (log entry 15). -/
def Obligations.DemodSampleDecides : Prop :=
  ∀ (i q : Byte) (s : State), s.cfg.legal = true →
    let pw := s.pw.update (lut (i ++ q))
    let fw := s.fw.update (iqCrossProduct s.prevI s.prevQ i q)
    ∃ sym, exec (.demodSample i q) s = .next { s with
        pw := pw, fw := fw, prevI := i, prevQ := q, n := s.n + 1
        aux := s.aux ++ [⟨pw.avg, fw.avg⟩], result := .symbol ⟨sym, s.n⟩ } ∧
      (pw.avg ≤ s.cfg.pwrThresh → sym = .zero) ∧
      (s.cfg.pwrThresh < pw.avg →
        (0 < fw.sum → sym = .pos) ∧ (fw.sum < 0 → sym = .neg) ∧
        (fw.sum = 0 → s.cfg.zeroFallbackEn = false → sym = .zero) ∧
        (fw.sum = 0 → s.cfg.zeroFallbackEn = true →
          (0 < fw.prevSum → sym = .pos) ∧ (fw.prevSum < 0 → sym = .neg) ∧ (fw.prevSum = 0 → sym = .zero)))

/-- R158 (a), (b): after the centre, and for the centre itself, the phase window is fed 0. -/
def Obligations.CentreSampleHasNoRotation : Prop :=
  ∀ (i q : Byte) (s : State), s.cfg.legal = true →
    (s.prevI = 128 ∧ s.prevQ = 128) ∨ (i = 128 ∧ q = 128) →
    ∃ t, exec (.demodSample i q) s = .next t ∧ t.fw = s.fw.update 0

/-- R158 (e): in a block that meets its invariant, `PWR_THRESH = 5` never passes and `PWR_THRESH = -1` always does. -/
def Obligations.CarrierThresholdExtremes : Prop :=
  ∀ (i q : Byte) (s : State), BlockInv s →
    ∃ t sym, exec (.demodSample i q) s = .next t ∧ t.result = .symbol ⟨sym, s.n⟩ ∧
      (s.cfg.pwrThresh = 5 → sym = .zero) ∧ (s.cfg.pwrThresh = -1 → carrier t = true)

/-- R150: the first byte of a pair is held. -/
def Obligations.InByteHoldsFirst : Prop :=
  ∀ (b : Byte) (s : State), s.cfg.legal = true → s.diPhase = false →
    exec (.inByte b) s = .next { s with diPhase := true, diHold := b, result := .none }

/-- R150, R250: the second byte of a pair runs the stages, each as its own operation, in the order of R250. -/
def Obligations.InByteRunsStages : Prop :=
  ∀ (b : Byte) (s : State), s.cfg.legal = true → s.diPhase = true →
    ∃ t s1 r s2, exec (.inByte b) s = .next t ∧
      exec (.demodSample s.diHold b) { s with diPhase := false } = .next s1 ∧ s1.result = .symbol r ∧
      exec (.runSymbol r.sym r.idx) s1 = .next s2 ∧
      ((s2.result = .none ∧ t = { s2 with result := .none }) ∨
       ∃ run s3 c, s2.result = .run run ∧
        exec (.clsRun run.val run.len run.start) s2 = .next s3 ∧ s3.result = .classified c ∧
        match c with
        | .bit cb => ∃ s4, exec (.syncAppend cb.val cb.len cb.start) s3 = .next s4 ∧ t = { s4 with result := .none }
        | .gap => ∃ s4, exec .syncGap s3 = .next s4 ∧ t = { s4 with result := .none }
        | .drop => t = { s3 with result := .none })

/-! ### Component 4: the classifier -/

/-- R171 (with R31): RUN.SYMBOL extends the open run, saturating, or closes it and opens the next. -/
def Obligations.RunSymbolTracksRuns : Prop :=
  ∀ (sym : Symbol) (idx : Index) (s : State), s.cfg.legal = true →
    (sym = s.run.val → ∃ len : Length, len.toNat = min (s.run.len.toNat + 1) (2 ^ 32 - 1) ∧
      exec (.runSymbol sym idx) s = .next { s with run := { s.run with len := len }, result := .none }) ∧
    (sym ≠ s.run.val →
      exec (.runSymbol sym idx) s = .next { s with run := ⟨sym, 1, idx⟩, result := .run s.run })

/-- R174: CLS.RUN, in integer arithmetic; the bit length fits the record exactly. -/
def Obligations.ClsRunQuantizes : Prop :=
  ∀ (val : Symbol) (len : Length) (start : Index) (s : State), s.cfg.legal = true →
    let one := 2 ^ s.cfg.shift
    let half := one / 2 - 1
    let ev := s.cfg.bitRate * (len.toNat * one) / s.cfg.sampleRate
    let bl := (ev + half) / one
    let rem := if half < ev % one then one - ev % one else ev % one
    let conf := if 1 < bl then rem / bl else rem
    (val = .zero → exec (.clsRun val len start) s = .next { s with result := .classified .gap }) ∧
    (val ≠ .zero → conf ≤ s.cfg.acceptThresh ∧ 0 < bl → ∃ l : Length, l.toNat = bl ∧
      exec (.clsRun val len start) s = .next { s with result := .classified (.bit ⟨val, l, start⟩) }) ∧
    (val ≠ .zero → ¬ (conf ≤ s.cfg.acceptThresh ∧ 0 < bl) →
      exec (.clsRun val len start) s =
        .next { s with diags := s.diags ++ [⟨.lowConf, start⟩], result := .classified .drop })

/-- R178 (a) to (f): rounding, zero bit lengths, monotonicity, the bound by the run length, exact multiples (and every
evaluation with no fraction), and the bounds of the confidence. -/
def Obligations.ClassifierLaws : Prop :=
  ∀ c : Config, c.legal = true →
    let one := 2 ^ c.shift
    (∀ len k f, evaluation c len = k * one + f → f < one →
      (f ≤ one / 2 → bitLength c len = k) ∧ (one / 2 + 1 ≤ f → bitLength c len = k + 1) ∧
      (f + 1 ≤ one / 2 → remainder c len = f) ∧ (one / 2 ≤ f → remainder c len = one - f)) ∧
    (∀ len, bitLength c len = 0 ↔ evaluation c len ≤ one / 2) ∧
    (∀ len len', len ≤ len' → evaluation c len ≤ evaluation c len' ∧ bitLength c len ≤ bitLength c len') ∧
    (∀ len, bitLength c len ≤ len) ∧
    (∀ r k, c.sampleRate = r * c.bitRate →
      evaluation c (k * r) = k * one ∧ remainder c (k * r) = 0 ∧ confidence c (k * r) = 0 ∧ bitLength c (k * r) = k) ∧
    (∀ len, evaluation c len % one = 0 → confidence c len = 0) ∧
    (∀ len, confidence c len ≤ remainder c len ∧ remainder c len ≤ 2 ^ (c.shift - 1) ∧
      (c.acceptThresh = 2 ^ (c.shift - 1) → 0 < bitLength c len → accepts c len = true) ∧
      (c.acceptThresh = 0 → accepts c len = true → remainder c len / bitLength c len = 0))

/-- R172: after reset the first non-zero symbol closes the run (0, 0, 0), which is a gap on an empty buffer and changes
nothing but the result. -/
def Obligations.FirstCarrierSymbolClosesEmptyRun : Prop :=
  ∀ (c : Config) (sym : Symbol) (idx : Index), c.legal = true → sym ≠ .zero →
    ∃ t u v, exec (.runSymbol sym idx) (State.resetWith c) = .next t ∧ t.result = .run ⟨.zero, 0, 0⟩ ∧
      t.run = ⟨sym, 1, idx⟩ ∧
      exec (.clsRun .zero 0 0) t = .next u ∧ u.result = .classified .gap ∧
      exec .syncGap u = .next v ∧ v = { u with result := .none }

/-! ### Component 5: the synchronizer -/

/-- R191: SYNC.APPEND stores, or drops with the flag, raising the diagnostic once. -/
def Obligations.SyncAppendBounded : Prop :=
  ∀ (val : Symbol) (len : Length) (start : Index) (s : State),
    (Instr.syncAppend val len start).wellFormed = true → s.cfg.legal = true →
    (s.fb.length < s.cfg.fbCap →
      exec (.syncAppend val len start) s = .next { s with fb := s.fb ++ [⟨val, len, start⟩], result := .none }) ∧
    (s.cfg.fbCap ≤ s.fb.length →
      exec (.syncAppend val len start) s = .next { s with
        fbTrunc := true, result := .none
        diags := if s.fbTrunc then s.diags else s.diags ++ [⟨.fbTrunc, start⟩] })

/-- R193, R194, R198 (a), (b): the match is the least offset at which every element is equal in value and length. -/
def Obligations.SyncMatchIsFirst : Prop :=
  ∀ (pat : List PatElem) (fb : List ClassifiedBit),
    let at_ := fun k => k + pat.length ≤ fb.length ∧
      ∀ j, j < pat.length → ∃ e p, fb[k + j]? = some e ∧ pat[j]? = some p ∧ e.val = p.val ∧ e.len = p.len
    (∀ k, syncMatch pat fb = some k ↔ at_ k ∧ ∀ j, j < k → ¬ at_ j) ∧
    (syncMatch pat fb = none ↔ ∀ k, ¬ at_ k)

/-- R195: SYNC.GAP with a match is SER.FRAME on the suffix, then APP.DECODE with the abort flag, and the buffer emptied;
without a match the buffer is emptied, with a diagnostic if it held anything. The frame is the fields named. -/
def Obligations.SyncGapDecodesAndEmpties : Prop :=
  ∀ s : State, s.cfg.legal = true → s.fb.length ≤ s.cfg.fbCap →
    ∃ t, exec .syncGap s = .next t ∧
      t = { s with
        fb := [], fbTrunc := false, ser := t.ser, bb := t.bb, frames := t.frames, diags := t.diags
        result := t.result } ∧
      (syncMatch s.cfg.syncPattern s.fb = none →
        t = { s with
          fb := [], fbTrunc := false, result := .none
          diags := s.diags ++ (s.fb.head?.map fun e => ⟨.noSync, e.start⟩).toList }) ∧
      (∀ k e, syncMatch s.cfg.syncPattern s.fb = some k → s.fb[k]? = some e →
        ∃ s1 r s2, exec (.serFrame (BitVec.ofNat 16 (k + s.cfg.syncPattern.length)) e.start) s = .next s1 ∧
          s1.result = .serFrame r ∧ exec (.appDecode (r == .ferr)) s1 = .next s2 ∧
          t = { s2 with fb := [], fbTrunc := false })

/-! ### Component 6: the deserializer -/

/-- R213: in `WAIT` a low bit starts a character and a high bit is idle. -/
def Obligations.SerBitInWait : Prop :=
  ∀ s : State, s.cfg.legal = true → s.ser.state = .wait →
    exec (.serBit .low) s = .next { s with ser := ⟨.data 0, 0, 0, false⟩, result := .serBit .none } ∧
    exec (.serBit .high) s = .next { s with result := .serBit .none }

/-- R214: in `DATA(i)` the bit enters the accumulator at its place, the ones are counted, and the next state follows.
The accumulator holds the `i` bits received so far, as the invariant of the serial registers says. -/
def Obligations.SerBitInData : Prop :=
  ∀ (i : Nat) (b : Level) (s : State), s.cfg.legal = true → s.ser.state = .data i → s.ser.wf s.cfg →
    let bit := if b = .high then 1 else 0
    ∃ acc : Byte, acc.toNat = (if s.cfg.lsbFirst then s.ser.acc.toNat + bit * 2 ^ i else 2 * s.ser.acc.toNat + bit) ∧
      exec (.serBit b) s = .next { s with
        ser := { s.ser with
          acc := acc, ones := s.ser.ones + bit
          state := if i + 1 < s.cfg.dataBits then .data (i + 1)
            else if s.cfg.parityMode ≠ .none then .parity else .stop 0 }
        result := .serBit .none }

/-- R216: the parity bit is stored and nothing is checked. -/
def Obligations.SerBitInParity : Prop :=
  ∀ (b : Level) (s : State), s.cfg.legal = true → s.ser.state = .parity →
    exec (.serBit b) s = .next { s with
      ser := { s.ser with state := .stop 0, par := decide (b = .high) }, result := .serBit .none }

/-- R217, R218: a low stop bit is a framing error; a high one leads to the next stop bit or emits and stores the byte. -/
def Obligations.SerBitInStop : Prop :=
  ∀ (j : Nat) (s : State), s.cfg.legal = true → s.ser.state = .stop j →
    let perr := parityError s.cfg s.ser.ones s.ser.par
    let room := decide (s.bb.bytes.length < s.cfg.byteCap)
    exec (.serBit .low) s = .next { s with ser := { s.ser with state := .wait }, result := .serBit .ferr } ∧
    (j + 1 < s.cfg.stopBits →
      exec (.serBit .high) s =
        .next { s with ser := { s.ser with state := .stop (j + 1) }, result := .serBit .none }) ∧
    (s.cfg.stopBits ≤ j + 1 →
      exec (.serBit .high) s = .next { s with
        ser := { s.ser with state := .wait }
        bb := {
          bytes := if room then s.bb.bytes ++ [s.ser.acc] else s.bb.bytes
          trunc := s.bb.trunc || !room
          perr := s.bb.perr || perr
          start := s.bb.start }
        diags := s.diags ++ (if !room && !s.bb.trunc then [⟨.bbTrunc, s.bb.start⟩] else []) ++
          (if perr && !s.bb.perr then [⟨.perr, s.bb.start⟩] else [])
        result := .serBit (.byte s.ser.acc perr) })

/-- R219: when the parity verdict is 1. That parity is even (odd) when the count of ones over data and parity bit is even
(odd) is the spec's own general-knowledge mark G1 (log entry 11, PRESUMED). -/
def Obligations.ParityVerdict : Prop :=
  ∀ (c : Config) (ones : Nat) (par : Bool),
    parityError c ones par = true ↔
      c.parityCheckEn = true ∧
      ((c.parityMode = .even ∧ (ones + if par then 1 else 0) % 2 ≠ 0) ∨
       (c.parityMode = .odd ∧ (ones + if par then 1 else 0) % 2 ≠ 1))

/-- R222 (a), (c), for every legal framing: idle bits change nothing, and a character on the line gives back its byte
with no framing error, emitted at the last of its `1 + DATA_BITS + parity + STOP_BITS` bit events. -/
def Obligations.CharacterRoundTrip : Prop :=
  ∀ (s : State) (b : Byte) (par : Bool) (idle : Nat), s.cfg.legal = true → s.ser.state = .wait →
    b.toNat < 2 ^ s.cfg.dataBits → s.bb.bytes.length < s.cfg.byteCap →
    let char := charLevels s.cfg b par
    let r := feedBits char s
    let p := if s.cfg.parityMode = .none then false else par
    let bad := parityError s.cfg (onesOf s.cfg b) p
    feedBits (List.replicate idle .high) s = (s, List.replicate idle .none) ∧
    char.length = 1 + s.cfg.dataBits + (if s.cfg.parityMode = .none then 0 else 1) + s.cfg.stopBits ∧
    r.2 = List.replicate (char.length - 1) .none ++ [.byte b bad] ∧
    r.1.ser = ⟨.wait, b, onesOf s.cfg b, p⟩ ∧
    r.1.bb = { s.bb with bytes := s.bb.bytes ++ [b], perr := s.bb.perr || bad }

/-- R222 (b), R106: only the bit event sequence of the suffix, not how it is cut into entries, matters to the result, the
serial registers and the byte buffer of SER.FRAME; the index of an `E_FERR` diagnostic is that of an entry, so it depends
on the cut and is left out. That this takes in `ds` above `fb_len`, outside the operand range of R211, is log entry 12
(DEDUCED). -/
def Obligations.OnlyBitEventsMatter : Prop :=
  ∀ (ds : BitVec 16) (x : Index) (s : State) (fb : List ClassifiedBit), s.cfg.legal = true →
    expand (s.fb.drop ds.toNat) = expand (fb.drop ds.toNat) →
    ∃ t u, exec (.serFrame ds x) s = .next t ∧ exec (.serFrame ds x) { s with fb := fb } = .next u ∧
      t.result = u.result ∧ t.ser = u.ser ∧ t.bb = u.bb

/-- R211: SER.FRAME completes and changes only the serial registers, the byte buffer and the diagnostics; it starts
fresh, whatever these registers held; an empty suffix gives `OK` and no byte; otherwise the result says how it ended:
`FERR` with the diagnostic of an entry of the suffix, or `OK`, with `E_PARTIAL` if a character is unfinished. That the
suffix is empty also for `ds` above `fb_len`, which the operand range of R211 excludes, is log entry 12 (DEDUCED). -/
def Obligations.SerFrameAttempt : Prop :=
  ∀ (ds : BitVec 16) (x : Index) (s : State), s.cfg.legal = true →
    ∃ t, exec (.serFrame ds x) s = .next t ∧
      t = { s with ser := t.ser, bb := t.bb, diags := t.diags, result := t.result } ∧
      (∀ r b, exec (.serFrame ds x) { s with ser := r, bb := b } = .next t) ∧
      t.bb.start = x ∧
      (s.fb.length ≤ ds.toNat →
        t = { s with ser := ⟨.wait, 0, 0, false⟩, bb := ⟨[], false, false, x⟩, result := .serFrame .ok }) ∧
      ((t.result = .serFrame .ferr ∧ t.ser.state = .wait ∧
          ∃ e ∈ s.fb.drop ds.toNat, t.diags.getLast? = some ⟨.ferr, e.start⟩) ∨
        (t.result = .serFrame .ok ∧
          (t.ser.state ≠ .wait → t.diags.getLast? = some ⟨.partialChar, x⟩)))

/-- R283, R211 step 3, R221: the diagnostics of one frame attempt: truncation and parity at most once each, then at most
one of `E_FERR` (exactly when the result is `FERR`) and `E_PARTIAL` (exactly when the result is `OK` and a character is
unfinished). That this takes in `ds` above `fb_len`, outside the operand range of R211, is log entry 12 (DEDUCED). -/
def Obligations.AttemptDiagnosticsOrdered : Prop :=
  ∀ (ds : BitVec 16) (x : Index) (s t : State), exec (.serFrame ds x) s = .next t →
    ∃ mid last : List DiagEvent, t.diags = s.diags ++ mid ++ last ∧
      (∀ d ∈ mid, d = ⟨.bbTrunc, x⟩ ∨ d = ⟨.perr, x⟩) ∧ mid.Nodup ∧
      (⟨.bbTrunc, x⟩ ∈ mid ↔ t.bb.trunc = true) ∧ (⟨.perr, x⟩ ∈ mid ↔ t.bb.perr = true) ∧
      (last = [] ∨ last = [⟨.partialChar, x⟩] ∨ ∃ y, last = [⟨.ferr, y⟩]) ∧
      (t.result = .serFrame .ferr ↔ ∃ y, last = [⟨.ferr, y⟩]) ∧
      (t.result = .serFrame .ok ∧ t.ser.state ≠ .wait ↔ last = [⟨.partialChar, x⟩])

/-- R212, R106: `feedBits` feeds bit events one at a time, each as the operation SER.BIT, and collects the results; the
model's result field (log entry 4) stays as it was. -/
def Obligations.FeedBitsIsSerBit : Prop :=
  ∀ (b : Level) (bs : List Level) (s : State), s.cfg.legal = true →
    feedBits [] s = (s, []) ∧
    ∃ t r, exec (.serBit b) s = .next t ∧ t.result = .serBit r ∧
      feedBits (b :: bs) s =
        ((feedBits bs { t with result := s.result }).1, r :: (feedBits bs { t with result := s.result }).2)

/-- R211, R106, R102: SER.FRAME is SER.BIT fed the suffix from fresh registers, entry by entry, `len` equal bit events per
entry, value +1 high and -1 low. If no bit event gives `FERR` the result is `OK`, with `E_PARTIAL` exactly if the state
is then not `WAIT`; else it stops behind the first `FERR` and raises `E_FERR` at the start of the entry that holds that
bit event. The entries hold no value 0, as `BlockInv` says of every frame buffer. That this takes in `ds` above `fb_len`,
outside the operand range of R211, with an empty suffix, is log entry 12 (DEDUCED). -/
def Obligations.SerFrameFoldsBitEvents : Prop :=
  ∀ (ds : BitVec 16) (x : Index) (s : State), s.cfg.legal = true → (∀ e ∈ s.fb, e.val ≠ .zero) →
    let events := fun es : List ClassifiedBit =>
      es.flatMap fun e => List.replicate e.len.toNat (if e.val = .pos then Level.high else Level.low)
    let suffix := s.fb.drop ds.toNat
    let fresh := { s with ser := ⟨.wait, 0, 0, false⟩, bb := ⟨[], false, false, x⟩ }
    let fed := feedBits (events suffix) fresh
    (SerResult.ferr ∉ fed.2 →
      exec (.serFrame ds x) s = .next { fed.1 with
        diags := fed.1.diags ++ (if fed.1.ser.state = .wait then [] else [⟨.partialChar, x⟩])
        result := .serFrame .ok }) ∧
    (∀ k, fed.2[k]? = some .ferr → (∀ j, j < k → fed.2[j]? ≠ some .ferr) →
      let upTo := (feedBits ((events suffix).take (k + 1)) fresh).1
      ∃ before e behind, suffix = before ++ e :: behind ∧
        (events before).length ≤ k ∧ k < (events before).length + e.len.toNat ∧
        exec (.serFrame ds x) s = .next { upTo with
          diags := upTo.diags ++ [⟨.ferr, e.start⟩], result := .serFrame .ferr })

/-- R220, R276: after a framing error the gap emits no FRAME event and, beyond the normal end of a gap, changes only the
serial registers, the byte buffer and the diagnostics, of which `E_FERR` is the last. -/
def Obligations.FramingErrorAborts : Prop :=
  ∀ (s : State) (k : Nat) (e : ClassifiedBit), s.cfg.legal = true →
    syncMatch s.cfg.syncPattern s.fb = some k → s.fb[k]? = some e →
    (serFrame (k + s.cfg.syncPattern.length) e.start s).2 = .ferr →
    ∃ t, exec .syncGap s = .next t ∧
      t = { s with fb := [], fbTrunc := false, ser := t.ser, bb := t.bb, diags := t.diags, result := .none } ∧
      t.ser.state = .wait ∧
      ∃ f ∈ s.fb.drop (k + s.cfg.syncPattern.length), t.diags.getLast? = some ⟨.ferr, f.start⟩

/-! ### Component 7: the field extractor -/

/-- R231 steps 1 and 2: the abort flag ends the operation; a frame of at most three bytes is dropped. -/
def Obligations.AppDecodeDropsAbortedAndShort : Prop :=
  ∀ s : State, s.cfg.legal = true →
    exec (.appDecode true) s = .next { s with result := .none } ∧
    (s.bb.bytes.length ≤ 3 →
      exec (.appDecode false) s =
        .next { s with diags := s.diags ++ [⟨.short, s.bb.start⟩], result := .none })

/-- R231 steps 3 to 7, R232, R233: classification by signature and trailer in table order, the downgrade of a `score`
frame too short for the field map, the diagnostic, the field values, and the event. -/
def Obligations.AppDecodeReports : Prop :=
  ∀ (s : State) (b0 b1 last : Byte) (mid : List Byte), s.cfg.legal = true →
    s.bb.bytes = b0 :: b1 :: (mid ++ [last]) → mid ≠ [] →
    ∃ (t : State) (ev : FrameEvent), exec (.appDecode false) s = .next t ∧
      ev.fbTrunc = s.fbTrunc ∧ ev.bbTrunc = s.bb.trunc ∧ ev.bbPerr = s.bb.perr ∧ ev.start = s.bb.start ∧
      ev.bytes = s.bb.bytes ∧
      (match s.cfg.kinds.find? (fun r => r.sig0 == b0 && r.sig1 == b1 && r.trailer == last) with
        | none => ev.kind = .unknown
        | some r =>
          (r.kind = 2 → ev.kind = .clock) ∧
          (r.kind = 1 → (∃ f ∈ s.cfg.fieldMap, s.bb.bytes.length ≤ f.offset.toNat) → ev.kind = .unknown) ∧
          (r.kind = 1 → (∀ f ∈ s.cfg.fieldMap, f.offset.toNat < s.bb.bytes.length) → ev.kind = .score)) ∧
      (ev.kind ≠ .score → ev.fields = []) ∧
      (ev.kind = .score → ev.fields.length = s.cfg.fieldMap.length ∧
        ∀ (k : Nat) (f : FieldRec), s.cfg.fieldMap[k]? = some f → ∃ byte, s.bb.bytes[f.offset.toNat]? = some byte ∧
          ev.fields[k]? = some ⟨f.fieldId,
            if f.ftype = 0 then BitVec.ofNat 8 (digitCode s.cfg.digitPatterns byte) else byte &&& f.mask⟩) ∧
      (ev.kind = .unknown ∧ s.cfg.dumpUnknownEn = false →
        t = { s with diags := s.diags ++ [⟨.malformed, s.bb.start⟩], result := .none }) ∧
      (ev.kind = .unknown ∧ s.cfg.dumpUnknownEn = true →
        t = { s with
          diags := s.diags ++ [⟨.malformed, s.bb.start⟩], frames := s.frames ++ [ev], result := .frame ev }) ∧
      (ev.kind ≠ .unknown → t = { s with frames := s.frames ++ [ev], result := .frame ev })

/-- R234: APP.DIGIT gives k for the k-th pattern and 15 for every other byte; nothing else changes. -/
def Obligations.AppDigitLooksUp : Prop :=
  ∀ (b : Byte) (s : State), s.cfg.legal = true →
    (∀ k, s.cfg.digitPatterns[k]? = some b →
      k ≤ 9 ∧ exec (.appDigit b) s = .next { s with result := .digit k }) ∧
    (b ∉ s.cfg.digitPatterns → exec (.appDigit b) s = .next { s with result := .digit 15 })

/-- R238: what every FRAME event satisfies, whichever operation emits it. That the events delivered before survive RESET
is the model's choice (log entry 9). -/
def Obligations.FrameEventLaws : Prop :=
  ∀ (i : Instr) (s t : State), s.cfg.legal = true → exec i s = .next t →
    ∃ evs, t.frames = s.frames ++ evs ∧ ∀ e ∈ evs,
      3 < e.bytes.length ∧ e.bytes = t.bb.bytes ∧ e.start = t.bb.start ∧
      (e.kind = .score → e.fields.length = s.cfg.fieldMap.length) ∧ (e.kind ≠ .score → e.fields = []) ∧
      ∀ (k : Nat) (f : FieldRec) (v : FieldValue), s.cfg.fieldMap[k]? = some f → f.ftype = 0 →
        e.fields[k]? = some v → v.value.toNat ≤ 9 ∨ v.value = 15

/-! ### Reset and the configuration -/

/-- R300, R55: RESET gives the reset state of the configuration inputs, whatever the state was. That the pins, the streams
and the events delivered before stay is the model's choice (log entry 9), and so is the result field (log entry 4). -/
def Obligations.ResetGivesResetState : Prop :=
  ∀ s : State, s.cfgIn.legal = true →
    exec .reset s = .next {
      cfg := s.cfgIn, cfgIn := s.cfgIn, rst := s.rst, inBytes := s.inBytes, opBits := s.opBits
      diPhase := false, diHold := 0, prevI := 128, prevQ := 128
      pw := {
        buf := List.replicate s.cfgIn.pwrWinN s.cfgIn.pwrWinInit, pos := 0
        sum := s.cfgIn.pwrWinN * s.cfgIn.pwrWinInit, prevSum := s.cfgIn.pwrWinN * s.cfgIn.pwrWinInit
        avg := s.cfgIn.pwrWinInit }
      fw := {
        buf := List.replicate s.cfgIn.phWinN s.cfgIn.phWinInit, pos := 0
        sum := s.cfgIn.phWinN * s.cfgIn.phWinInit, prevSum := s.cfgIn.phWinN * s.cfgIn.phWinInit
        avg := s.cfgIn.phWinInit }
      n := 0, run := ⟨.zero, 0, 0⟩, fb := [], fbTrunc := false
      ser := ⟨.wait, 0, 0, false⟩, bb := ⟨[], false, false, 0⟩
      frames := s.frames, diags := s.diags, aux := s.aux, result := .none }

/-- R300: RESET is idempotent. Its second run reads the same configuration inputs since RESET leaves the pins as they are,
which, with the delivered events staying, is the model's choice (log entry 9, DESIGN CHOICE). -/
def Obligations.ResetIsIdempotent : Prop :=
  ∀ s : State, s.cfgIn.legal = true →
    ∃ t, exec .reset s = .next t ∧ exec .reset t = .next t

/-- R9, with R46 (at most two kinds), R60 (at most 255 field records) and R114 (f) (kind and field type codes): when a
configuration is legal, field by field. The one-bit fields and `PARITY_MODE` have no value out of range. -/
def Obligations.ConfigurationLegalIffInRange : Prop :=
  ∀ c : Config, c.legal = true ↔
    (1 ≤ c.sampleRate ∧ c.sampleRate ≤ 2 ^ 32 - 1) ∧
    (1 ≤ c.bitRate ∧ c.bitRate ≤ c.sampleRate) ∧
    (1 ≤ c.shift ∧ c.shift ≤ 15) ∧
    (-1 ≤ c.pwrThresh ∧ c.pwrThresh ≤ 5) ∧
    c.acceptThresh ≤ 2 ^ (c.shift - 1) ∧
    (1 ≤ c.pwrWinN ∧ c.pwrWinN ≤ 65535) ∧
    (1 ≤ c.phWinN ∧ c.phWinN ≤ 65535) ∧
    (0 ≤ c.pwrWinInit ∧ c.pwrWinInit ≤ 5) ∧
    (-32640 ≤ c.phWinInit ∧ c.phWinInit ≤ 32640) ∧
    (1 ≤ c.syncPattern.length ∧ c.syncPattern.length ≤ c.fbCap) ∧
    (∀ p ∈ c.syncPattern, (p.val = .neg ∨ p.val = .pos) ∧ 1 ≤ p.len.toNat ∧ p.len.toNat ≤ 2 ^ 32 - 1) ∧
    (1 ≤ c.fbCap ∧ c.fbCap ≤ 65535) ∧
    (4 ≤ c.byteCap ∧ c.byteCap ≤ 65535) ∧
    (1 ≤ c.dataBits ∧ c.dataBits ≤ 8) ∧
    (1 ≤ c.stopBits ∧ c.stopBits ≤ 3) ∧
    (c.kinds.length ≤ 2 ∧ ∀ r ∈ c.kinds, r.kind = 1 ∨ r.kind = 2) ∧
    (c.digitPatterns.length = 10 ∧
      ∀ j k, j < k → k < 10 → c.digitPatterns[j]? ≠ c.digitPatterns[k]?) ∧
    (c.fieldMap.length ≤ 255 ∧ ∀ f ∈ c.fieldMap, f.ftype = 0 ∨ f.ftype = 1)

/-- R11: illegal configuration inputs are refused by RESET, and a state with an illegal configuration has no behaviour: no
operation but RESET has a next state, and neither has a step that is not RESET, with nothing offered included. That the
registers of the configuration, `rst` and the words of a stage test are fields of the state is log entries 2 (DEDUCED), 14
and 3 (DESIGN CHOICE). -/
def Obligations.IllegalConfigurationRefused : Prop :=
  ∀ s : State,
    (s.cfgIn.legal = false → exec .reset s = .refused .illegalConfig) ∧
    (s.cfg.legal = false → ∀ (i : Instr) (t : State), i ≠ .reset → exec i s ≠ .next t) ∧
    (s.cfg.legal = false → s.rst = false → (∀ rest, decode s.opBits ≠ .ok (.reset, rest)) → ∀ t, step s ≠ .next t)

/-- R45, R252: only RESET writes the configuration, and no operation writes a pin, offers a byte or a word (that pins and
words stand in the state is the model's choice, log entries 3 and 14; that RESET keeps the pins, log entry 9). -/
def Obligations.ConfigurationIsFixed : Prop :=
  ∀ (i : Instr) (s t : State), exec i s = .next t →
    (i ≠ .reset → t.cfg = s.cfg) ∧ (i = .reset → t.cfg = s.cfgIn) ∧
    t.cfgIn = s.cfgIn ∧ t.rst = s.rst ∧ t.inBytes = s.inBytes ∧ t.opBits = s.opBits

/-! ### The whole machine -/

/-- R270: no condition stops the block: every well-formed operation completes in a block with a legal configuration, and
RESET in every block with legal configuration inputs. SER.FRAME with `ds` above `fb_len` is among them (log entry 12). -/
def Obligations.EveryOperationCompletes : Prop :=
  ∀ (i : Instr) (s : State), i.wellFormed = true → (i ≠ .reset → s.cfg.legal = true) →
    (i = .reset → s.cfgIn.legal = true) → ∃ t, exec i s = .next t

/-- The step runs the decoded operation word of a stage test, moved past the word (log entry 3). -/
def Obligations.StepRunsDecodedWord : Prop :=
  ∀ (s : State) (i : Instr) (rest : List Bool), s.rst = false → decode s.opBits = .ok (i, rest) →
    step s = exec i { s with opBits := rest }

/-- A word that decodes to *invalid* is refused under its reason (R114; log entry 3). -/
def Obligations.StepRefusesInvalidWord : Prop :=
  ∀ (s : State) (e : DecodeError), s.rst = false → s.opBits ≠ [] → decode s.opBits = .error e →
    step s = .refused (.invalidWord e)

/-- R61, R252: with no stage test, the step takes the next byte of `IN` by IN.BYTE; with nothing offered, nothing
further happens (R256): the model's step that changes nothing (log entry 13), refused under an illegal configuration
like everything else (R11). -/
def Obligations.StepTakesNextByte : Prop :=
  ∀ s : State, s.rst = false → s.opBits = [] →
    (∀ b rest, s.inBytes = b :: rest → step s = exec (.inByte b) { s with inBytes := rest }) ∧
    (s.inBytes = [] → step s = if s.cfg.legal then .next s else .refused .illegalConfig)

/-- R287, R300: while `rst` is high every step is RESET and nothing is consumed or produced. That the pin is a field of
the state is the model's choice (log entry 14), and so is that the events delivered before stay through RESET, which R300
leaves open (log entry 9, DESIGN CHOICE). -/
def Obligations.StepInResetMode : Prop :=
  ∀ s : State, s.rst = true → step s = exec .reset s ∧
    ∀ t, step s = .next t →
      t.inBytes = s.inBytes ∧ t.frames = s.frames ∧ t.diags = s.diags ∧ t.aux = s.aux ∧ t.rst = true

/-- R114, R270: on its pins the block never stops: with legal configurations and no stage test, every step has a next
state. With no byte offered that is the model's idle step (log entry 13, DEDUCED); `rst` and the words of a stage test as
fields of the state are log entries 14 and 3 (DESIGN CHOICE). -/
def Obligations.RunningBlockNeverStops : Prop :=
  ∀ s : State, s.cfg.legal = true → s.cfgIn.legal = true → s.opBits = [] → ∃ t, step s = .next t

/-- R55: the reset state of every legal configuration meets the invariant, that of the model's own reset configuration
(log entry 1) among them. -/
def Obligations.InvariantHoldsAfterReset : Prop :=
  (∀ c : Config, c.legal = true → BlockInv (State.resetWith c)) ∧ BlockInv State.reset

/-- R26, R23 to R25, R30 to R36, R68: every step keeps the invariant: window sums and averages, ranges of every register,
capacities, truncation flags, ClassifiedBit records, serial states and accumulators, and the form of the events. The
average is the quotient truncated toward zero (the spec's mark G2, log entry 10). -/
def Obligations.InvariantKeptByEveryStep : Prop :=
  ∀ s t : State, BlockInv s → step s = .next t → BlockInv t

/-- R62, R255: an operation appends to the outputs, and at most one FRAME event. R300 leaves open whether RESET keeps the
events delivered before; that it does is the model's choice (log entry 9, DESIGN CHOICE). -/
def Obligations.AtMostOneFramePerStep : Prop :=
  ∀ (i : Instr) (s t : State), exec i s = .next t →
    ∃ evs ds as, t.frames = s.frames ++ evs ∧ evs.length ≤ 1 ∧ t.diags = s.diags ++ ds ∧ t.aux = s.aux ++ as

/-- R312, R255: an input byte brings a FRAME event only as the second byte of a sample whose non-zero symbol closes a
run of value 0, and the frame buffer is then empty. -/
def Obligations.FrameOnlyWhenGapCloses : Prop :=
  ∀ (b : Byte) (s t : State), exec (.inByte b) s = .next t → t.frames ≠ s.frames →
    s.diPhase = true ∧ s.run.val = .zero ∧ t.run.val ≠ .zero ∧ t.run.len = 1 ∧ t.run.start = s.n ∧
      t.fb = [] ∧ t.fbTrunc = false

/-- R24, R290: the sample counter is written by DEMOD.SAMPLE, alone or within a step, and by RESET. -/
def Obligations.SampleCounterCountsSamples : Prop :=
  ∀ (i : Instr) (s t : State), exec i s = .next t →
    t.n = match i with
      | .reset => 0
      | .demodSample _ _ => s.n + 1
      | .inByte _ => if s.diPhase then s.n + 1 else s.n
      | .magLookup _ _ | .swInit _ _ _ | .swUpdate _ _ | .runSymbol _ _ | .clsRun _ _ _ | .syncAppend _ _ _
      | .syncGap | .serFrame _ _ | .serBit _ | .appDecode _ | .appDigit _ => s.n

/-- R62, R113: the outputs are never read back: from any delivered events an operation does what it does from none. That
RESET too keeps the events delivered before is the model's choice (log entry 9). -/
def Obligations.OutputIsWriteOnly : Prop :=
  ∀ (i : Instr) (s t : State), exec i { s with frames := [], diags := [], aux := [] } = .next t →
    exec i s = .next { t with
      frames := s.frames ++ t.frames, diags := s.diags ++ t.diags, aux := s.aux ++ t.aux }

/-- R254: the block is a stream transducer: one step per byte from the reset state ends in the fold of IN.BYTE, `run`
reports it, and `run` on `a ++ b` goes on from the state after `a`. -/
def Obligations.RunIsAStreamTransducer : Prop :=
  (∀ (c : Config) (bytes : List Byte), c.legal = true →
    Host.Core.run Sys2Proof.core bytes.length { State.resetWith c with inBytes := bytes }
        = .next (takeBytes bytes (State.resetWith c)) ∧
    run c bytes = some (takeBytes bytes (State.resetWith c), (takeBytes bytes (State.resetWith c)).frames,
      (takeBytes bytes (State.resetWith c)).diags)) ∧
  (∀ (c : Config) (a b : List Byte) (s : State) (fs : List FrameEvent) (ds : List DiagEvent),
    run c a = some (s, fs, ds) →
    run c (a ++ b) = some (takeBytes b s, (takeBytes b s).frames, (takeBytes b s).diags)) ∧
  (∀ (c : Config) (bytes : List Byte), c.legal = false → run c bytes = none)

/-- R97 to R99, R101, R112, R113, R118: the widths of the records at the ports and in the memories. -/
def Obligations.RecordWidths : Prop :=
  (∀ r, (symbolRecBits r).length = 66) ∧ (∀ r, (runBits r).length = 98) ∧ (∀ e, (classifiedBitBits e).length = 98) ∧
  (∀ p, (patElemBits p).length = 34) ∧ (∀ e, (diagBits e).length = 68) ∧ (∀ a, (auxBits a).length = 20) ∧
  (∀ e, (frameBits e).length = 93 + 8 * e.bytes.length + 16 * e.fields.length)
end

