-- ==== Sys2Proof/Laws/State.lean ====
section
/-! SUPPORT. What each named update of State leaves in each field: one lemma per field per update. -/

namespace Sys2Proof.Machine

@[simp] theorem State.setDi_cfg (s : State) (p : Bool) (h : Byte) : (s.setDi p h).cfg = s.cfg := rfl
@[simp] theorem State.setDi_cfgIn (s : State) (p : Bool) (h : Byte) : (s.setDi p h).cfgIn = s.cfgIn := rfl
@[simp] theorem State.setDi_rst (s : State) (p : Bool) (h : Byte) : (s.setDi p h).rst = s.rst := rfl
@[simp] theorem State.setDi_inBytes (s : State) (p : Bool) (h : Byte) : (s.setDi p h).inBytes = s.inBytes := rfl
@[simp] theorem State.setDi_opBits (s : State) (p : Bool) (h : Byte) : (s.setDi p h).opBits = s.opBits := rfl
@[simp] theorem State.setDi_diPhase (s : State) (p : Bool) (h : Byte) : (s.setDi p h).diPhase = p := rfl
@[simp] theorem State.setDi_diHold (s : State) (p : Bool) (h : Byte) : (s.setDi p h).diHold = h := rfl
@[simp] theorem State.setDi_prevI (s : State) (p : Bool) (h : Byte) : (s.setDi p h).prevI = s.prevI := rfl
@[simp] theorem State.setDi_prevQ (s : State) (p : Bool) (h : Byte) : (s.setDi p h).prevQ = s.prevQ := rfl
@[simp] theorem State.setDi_pw (s : State) (p : Bool) (h : Byte) : (s.setDi p h).pw = s.pw := rfl
@[simp] theorem State.setDi_fw (s : State) (p : Bool) (h : Byte) : (s.setDi p h).fw = s.fw := rfl
@[simp] theorem State.setDi_n (s : State) (p : Bool) (h : Byte) : (s.setDi p h).n = s.n := rfl
@[simp] theorem State.setDi_run (s : State) (p : Bool) (h : Byte) : (s.setDi p h).run = s.run := rfl
@[simp] theorem State.setDi_fb (s : State) (p : Bool) (h : Byte) : (s.setDi p h).fb = s.fb := rfl
@[simp] theorem State.setDi_fbTrunc (s : State) (p : Bool) (h : Byte) : (s.setDi p h).fbTrunc = s.fbTrunc := rfl
@[simp] theorem State.setDi_ser (s : State) (p : Bool) (h : Byte) : (s.setDi p h).ser = s.ser := rfl
@[simp] theorem State.setDi_bb (s : State) (p : Bool) (h : Byte) : (s.setDi p h).bb = s.bb := rfl
@[simp] theorem State.setDi_frames (s : State) (p : Bool) (h : Byte) : (s.setDi p h).frames = s.frames := rfl
@[simp] theorem State.setDi_diags (s : State) (p : Bool) (h : Byte) : (s.setDi p h).diags = s.diags := rfl
@[simp] theorem State.setDi_aux (s : State) (p : Bool) (h : Byte) : (s.setDi p h).aux = s.aux := rfl
@[simp] theorem State.setDi_result (s : State) (p : Bool) (h : Byte) : (s.setDi p h).result = s.result := rfl

@[simp] theorem State.setPrev_cfg (s : State) (i q : Byte) : (s.setPrev i q).cfg = s.cfg := rfl
@[simp] theorem State.setPrev_cfgIn (s : State) (i q : Byte) : (s.setPrev i q).cfgIn = s.cfgIn := rfl
@[simp] theorem State.setPrev_rst (s : State) (i q : Byte) : (s.setPrev i q).rst = s.rst := rfl
@[simp] theorem State.setPrev_inBytes (s : State) (i q : Byte) : (s.setPrev i q).inBytes = s.inBytes := rfl
@[simp] theorem State.setPrev_opBits (s : State) (i q : Byte) : (s.setPrev i q).opBits = s.opBits := rfl
@[simp] theorem State.setPrev_diPhase (s : State) (i q : Byte) : (s.setPrev i q).diPhase = s.diPhase := rfl
@[simp] theorem State.setPrev_diHold (s : State) (i q : Byte) : (s.setPrev i q).diHold = s.diHold := rfl
@[simp] theorem State.setPrev_prevI (s : State) (i q : Byte) : (s.setPrev i q).prevI = i := rfl
@[simp] theorem State.setPrev_prevQ (s : State) (i q : Byte) : (s.setPrev i q).prevQ = q := rfl
@[simp] theorem State.setPrev_pw (s : State) (i q : Byte) : (s.setPrev i q).pw = s.pw := rfl
@[simp] theorem State.setPrev_fw (s : State) (i q : Byte) : (s.setPrev i q).fw = s.fw := rfl
@[simp] theorem State.setPrev_n (s : State) (i q : Byte) : (s.setPrev i q).n = s.n := rfl
@[simp] theorem State.setPrev_run (s : State) (i q : Byte) : (s.setPrev i q).run = s.run := rfl
@[simp] theorem State.setPrev_fb (s : State) (i q : Byte) : (s.setPrev i q).fb = s.fb := rfl
@[simp] theorem State.setPrev_fbTrunc (s : State) (i q : Byte) : (s.setPrev i q).fbTrunc = s.fbTrunc := rfl
@[simp] theorem State.setPrev_ser (s : State) (i q : Byte) : (s.setPrev i q).ser = s.ser := rfl
@[simp] theorem State.setPrev_bb (s : State) (i q : Byte) : (s.setPrev i q).bb = s.bb := rfl
@[simp] theorem State.setPrev_frames (s : State) (i q : Byte) : (s.setPrev i q).frames = s.frames := rfl
@[simp] theorem State.setPrev_diags (s : State) (i q : Byte) : (s.setPrev i q).diags = s.diags := rfl
@[simp] theorem State.setPrev_aux (s : State) (i q : Byte) : (s.setPrev i q).aux = s.aux := rfl
@[simp] theorem State.setPrev_result (s : State) (i q : Byte) : (s.setPrev i q).result = s.result := rfl

@[simp] theorem State.setN_cfg (s : State) (k : Index) : (s.setN k).cfg = s.cfg := rfl
@[simp] theorem State.setN_cfgIn (s : State) (k : Index) : (s.setN k).cfgIn = s.cfgIn := rfl
@[simp] theorem State.setN_rst (s : State) (k : Index) : (s.setN k).rst = s.rst := rfl
@[simp] theorem State.setN_inBytes (s : State) (k : Index) : (s.setN k).inBytes = s.inBytes := rfl
@[simp] theorem State.setN_opBits (s : State) (k : Index) : (s.setN k).opBits = s.opBits := rfl
@[simp] theorem State.setN_diPhase (s : State) (k : Index) : (s.setN k).diPhase = s.diPhase := rfl
@[simp] theorem State.setN_diHold (s : State) (k : Index) : (s.setN k).diHold = s.diHold := rfl
@[simp] theorem State.setN_prevI (s : State) (k : Index) : (s.setN k).prevI = s.prevI := rfl
@[simp] theorem State.setN_prevQ (s : State) (k : Index) : (s.setN k).prevQ = s.prevQ := rfl
@[simp] theorem State.setN_pw (s : State) (k : Index) : (s.setN k).pw = s.pw := rfl
@[simp] theorem State.setN_fw (s : State) (k : Index) : (s.setN k).fw = s.fw := rfl
@[simp] theorem State.setN_n (s : State) (k : Index) : (s.setN k).n = k := rfl
@[simp] theorem State.setN_run (s : State) (k : Index) : (s.setN k).run = s.run := rfl
@[simp] theorem State.setN_fb (s : State) (k : Index) : (s.setN k).fb = s.fb := rfl
@[simp] theorem State.setN_fbTrunc (s : State) (k : Index) : (s.setN k).fbTrunc = s.fbTrunc := rfl
@[simp] theorem State.setN_ser (s : State) (k : Index) : (s.setN k).ser = s.ser := rfl
@[simp] theorem State.setN_bb (s : State) (k : Index) : (s.setN k).bb = s.bb := rfl
@[simp] theorem State.setN_frames (s : State) (k : Index) : (s.setN k).frames = s.frames := rfl
@[simp] theorem State.setN_diags (s : State) (k : Index) : (s.setN k).diags = s.diags := rfl
@[simp] theorem State.setN_aux (s : State) (k : Index) : (s.setN k).aux = s.aux := rfl
@[simp] theorem State.setN_result (s : State) (k : Index) : (s.setN k).result = s.result := rfl

@[simp] theorem State.setRun_cfg (s : State) (r : Run) : (s.setRun r).cfg = s.cfg := rfl
@[simp] theorem State.setRun_cfgIn (s : State) (r : Run) : (s.setRun r).cfgIn = s.cfgIn := rfl
@[simp] theorem State.setRun_rst (s : State) (r : Run) : (s.setRun r).rst = s.rst := rfl
@[simp] theorem State.setRun_inBytes (s : State) (r : Run) : (s.setRun r).inBytes = s.inBytes := rfl
@[simp] theorem State.setRun_opBits (s : State) (r : Run) : (s.setRun r).opBits = s.opBits := rfl
@[simp] theorem State.setRun_diPhase (s : State) (r : Run) : (s.setRun r).diPhase = s.diPhase := rfl
@[simp] theorem State.setRun_diHold (s : State) (r : Run) : (s.setRun r).diHold = s.diHold := rfl
@[simp] theorem State.setRun_prevI (s : State) (r : Run) : (s.setRun r).prevI = s.prevI := rfl
@[simp] theorem State.setRun_prevQ (s : State) (r : Run) : (s.setRun r).prevQ = s.prevQ := rfl
@[simp] theorem State.setRun_pw (s : State) (r : Run) : (s.setRun r).pw = s.pw := rfl
@[simp] theorem State.setRun_fw (s : State) (r : Run) : (s.setRun r).fw = s.fw := rfl
@[simp] theorem State.setRun_n (s : State) (r : Run) : (s.setRun r).n = s.n := rfl
@[simp] theorem State.setRun_run (s : State) (r : Run) : (s.setRun r).run = r := rfl
@[simp] theorem State.setRun_fb (s : State) (r : Run) : (s.setRun r).fb = s.fb := rfl
@[simp] theorem State.setRun_fbTrunc (s : State) (r : Run) : (s.setRun r).fbTrunc = s.fbTrunc := rfl
@[simp] theorem State.setRun_ser (s : State) (r : Run) : (s.setRun r).ser = s.ser := rfl
@[simp] theorem State.setRun_bb (s : State) (r : Run) : (s.setRun r).bb = s.bb := rfl
@[simp] theorem State.setRun_frames (s : State) (r : Run) : (s.setRun r).frames = s.frames := rfl
@[simp] theorem State.setRun_diags (s : State) (r : Run) : (s.setRun r).diags = s.diags := rfl
@[simp] theorem State.setRun_aux (s : State) (r : Run) : (s.setRun r).aux = s.aux := rfl
@[simp] theorem State.setRun_result (s : State) (r : Run) : (s.setRun r).result = s.result := rfl

@[simp] theorem State.setFb_cfg (s : State) (l : List ClassifiedBit) (b : Bool) : (s.setFb l b).cfg = s.cfg := rfl
@[simp] theorem State.setFb_cfgIn (s : State) (l : List ClassifiedBit) (b : Bool) : (s.setFb l b).cfgIn = s.cfgIn := rfl
@[simp] theorem State.setFb_rst (s : State) (l : List ClassifiedBit) (b : Bool) : (s.setFb l b).rst = s.rst := rfl
@[simp] theorem State.setFb_inBytes (s : State) (l : List ClassifiedBit) (b : Bool) : (s.setFb l b).inBytes = s.inBytes := rfl
@[simp] theorem State.setFb_opBits (s : State) (l : List ClassifiedBit) (b : Bool) : (s.setFb l b).opBits = s.opBits := rfl
@[simp] theorem State.setFb_diPhase (s : State) (l : List ClassifiedBit) (b : Bool) : (s.setFb l b).diPhase = s.diPhase := rfl
@[simp] theorem State.setFb_diHold (s : State) (l : List ClassifiedBit) (b : Bool) : (s.setFb l b).diHold = s.diHold := rfl
@[simp] theorem State.setFb_prevI (s : State) (l : List ClassifiedBit) (b : Bool) : (s.setFb l b).prevI = s.prevI := rfl
@[simp] theorem State.setFb_prevQ (s : State) (l : List ClassifiedBit) (b : Bool) : (s.setFb l b).prevQ = s.prevQ := rfl
@[simp] theorem State.setFb_pw (s : State) (l : List ClassifiedBit) (b : Bool) : (s.setFb l b).pw = s.pw := rfl
@[simp] theorem State.setFb_fw (s : State) (l : List ClassifiedBit) (b : Bool) : (s.setFb l b).fw = s.fw := rfl
@[simp] theorem State.setFb_n (s : State) (l : List ClassifiedBit) (b : Bool) : (s.setFb l b).n = s.n := rfl
@[simp] theorem State.setFb_run (s : State) (l : List ClassifiedBit) (b : Bool) : (s.setFb l b).run = s.run := rfl
@[simp] theorem State.setFb_fb (s : State) (l : List ClassifiedBit) (b : Bool) : (s.setFb l b).fb = l := rfl
@[simp] theorem State.setFb_fbTrunc (s : State) (l : List ClassifiedBit) (b : Bool) : (s.setFb l b).fbTrunc = b := rfl
@[simp] theorem State.setFb_ser (s : State) (l : List ClassifiedBit) (b : Bool) : (s.setFb l b).ser = s.ser := rfl
@[simp] theorem State.setFb_bb (s : State) (l : List ClassifiedBit) (b : Bool) : (s.setFb l b).bb = s.bb := rfl
@[simp] theorem State.setFb_frames (s : State) (l : List ClassifiedBit) (b : Bool) : (s.setFb l b).frames = s.frames := rfl
@[simp] theorem State.setFb_diags (s : State) (l : List ClassifiedBit) (b : Bool) : (s.setFb l b).diags = s.diags := rfl
@[simp] theorem State.setFb_aux (s : State) (l : List ClassifiedBit) (b : Bool) : (s.setFb l b).aux = s.aux := rfl
@[simp] theorem State.setFb_result (s : State) (l : List ClassifiedBit) (b : Bool) : (s.setFb l b).result = s.result := rfl

@[simp] theorem State.setSer_cfg (s : State) (r : Serial) : (s.setSer r).cfg = s.cfg := rfl
@[simp] theorem State.setSer_cfgIn (s : State) (r : Serial) : (s.setSer r).cfgIn = s.cfgIn := rfl
@[simp] theorem State.setSer_rst (s : State) (r : Serial) : (s.setSer r).rst = s.rst := rfl
@[simp] theorem State.setSer_inBytes (s : State) (r : Serial) : (s.setSer r).inBytes = s.inBytes := rfl
@[simp] theorem State.setSer_opBits (s : State) (r : Serial) : (s.setSer r).opBits = s.opBits := rfl
@[simp] theorem State.setSer_diPhase (s : State) (r : Serial) : (s.setSer r).diPhase = s.diPhase := rfl
@[simp] theorem State.setSer_diHold (s : State) (r : Serial) : (s.setSer r).diHold = s.diHold := rfl
@[simp] theorem State.setSer_prevI (s : State) (r : Serial) : (s.setSer r).prevI = s.prevI := rfl
@[simp] theorem State.setSer_prevQ (s : State) (r : Serial) : (s.setSer r).prevQ = s.prevQ := rfl
@[simp] theorem State.setSer_pw (s : State) (r : Serial) : (s.setSer r).pw = s.pw := rfl
@[simp] theorem State.setSer_fw (s : State) (r : Serial) : (s.setSer r).fw = s.fw := rfl
@[simp] theorem State.setSer_n (s : State) (r : Serial) : (s.setSer r).n = s.n := rfl
@[simp] theorem State.setSer_run (s : State) (r : Serial) : (s.setSer r).run = s.run := rfl
@[simp] theorem State.setSer_fb (s : State) (r : Serial) : (s.setSer r).fb = s.fb := rfl
@[simp] theorem State.setSer_fbTrunc (s : State) (r : Serial) : (s.setSer r).fbTrunc = s.fbTrunc := rfl
@[simp] theorem State.setSer_ser (s : State) (r : Serial) : (s.setSer r).ser = r := rfl
@[simp] theorem State.setSer_bb (s : State) (r : Serial) : (s.setSer r).bb = s.bb := rfl
@[simp] theorem State.setSer_frames (s : State) (r : Serial) : (s.setSer r).frames = s.frames := rfl
@[simp] theorem State.setSer_diags (s : State) (r : Serial) : (s.setSer r).diags = s.diags := rfl
@[simp] theorem State.setSer_aux (s : State) (r : Serial) : (s.setSer r).aux = s.aux := rfl
@[simp] theorem State.setSer_result (s : State) (r : Serial) : (s.setSer r).result = s.result := rfl

@[simp] theorem State.setBb_cfg (s : State) (b : ByteBuffer) : (s.setBb b).cfg = s.cfg := rfl
@[simp] theorem State.setBb_cfgIn (s : State) (b : ByteBuffer) : (s.setBb b).cfgIn = s.cfgIn := rfl
@[simp] theorem State.setBb_rst (s : State) (b : ByteBuffer) : (s.setBb b).rst = s.rst := rfl
@[simp] theorem State.setBb_inBytes (s : State) (b : ByteBuffer) : (s.setBb b).inBytes = s.inBytes := rfl
@[simp] theorem State.setBb_opBits (s : State) (b : ByteBuffer) : (s.setBb b).opBits = s.opBits := rfl
@[simp] theorem State.setBb_diPhase (s : State) (b : ByteBuffer) : (s.setBb b).diPhase = s.diPhase := rfl
@[simp] theorem State.setBb_diHold (s : State) (b : ByteBuffer) : (s.setBb b).diHold = s.diHold := rfl
@[simp] theorem State.setBb_prevI (s : State) (b : ByteBuffer) : (s.setBb b).prevI = s.prevI := rfl
@[simp] theorem State.setBb_prevQ (s : State) (b : ByteBuffer) : (s.setBb b).prevQ = s.prevQ := rfl
@[simp] theorem State.setBb_pw (s : State) (b : ByteBuffer) : (s.setBb b).pw = s.pw := rfl
@[simp] theorem State.setBb_fw (s : State) (b : ByteBuffer) : (s.setBb b).fw = s.fw := rfl
@[simp] theorem State.setBb_n (s : State) (b : ByteBuffer) : (s.setBb b).n = s.n := rfl
@[simp] theorem State.setBb_run (s : State) (b : ByteBuffer) : (s.setBb b).run = s.run := rfl
@[simp] theorem State.setBb_fb (s : State) (b : ByteBuffer) : (s.setBb b).fb = s.fb := rfl
@[simp] theorem State.setBb_fbTrunc (s : State) (b : ByteBuffer) : (s.setBb b).fbTrunc = s.fbTrunc := rfl
@[simp] theorem State.setBb_ser (s : State) (b : ByteBuffer) : (s.setBb b).ser = s.ser := rfl
@[simp] theorem State.setBb_bb (s : State) (b : ByteBuffer) : (s.setBb b).bb = b := rfl
@[simp] theorem State.setBb_frames (s : State) (b : ByteBuffer) : (s.setBb b).frames = s.frames := rfl
@[simp] theorem State.setBb_diags (s : State) (b : ByteBuffer) : (s.setBb b).diags = s.diags := rfl
@[simp] theorem State.setBb_aux (s : State) (b : ByteBuffer) : (s.setBb b).aux = s.aux := rfl
@[simp] theorem State.setBb_result (s : State) (b : ByteBuffer) : (s.setBb b).result = s.result := rfl

@[simp] theorem State.setResult_cfg (s : State) (r : OpResult) : (s.setResult r).cfg = s.cfg := rfl
@[simp] theorem State.setResult_cfgIn (s : State) (r : OpResult) : (s.setResult r).cfgIn = s.cfgIn := rfl
@[simp] theorem State.setResult_rst (s : State) (r : OpResult) : (s.setResult r).rst = s.rst := rfl
@[simp] theorem State.setResult_inBytes (s : State) (r : OpResult) : (s.setResult r).inBytes = s.inBytes := rfl
@[simp] theorem State.setResult_opBits (s : State) (r : OpResult) : (s.setResult r).opBits = s.opBits := rfl
@[simp] theorem State.setResult_diPhase (s : State) (r : OpResult) : (s.setResult r).diPhase = s.diPhase := rfl
@[simp] theorem State.setResult_diHold (s : State) (r : OpResult) : (s.setResult r).diHold = s.diHold := rfl
@[simp] theorem State.setResult_prevI (s : State) (r : OpResult) : (s.setResult r).prevI = s.prevI := rfl
@[simp] theorem State.setResult_prevQ (s : State) (r : OpResult) : (s.setResult r).prevQ = s.prevQ := rfl
@[simp] theorem State.setResult_pw (s : State) (r : OpResult) : (s.setResult r).pw = s.pw := rfl
@[simp] theorem State.setResult_fw (s : State) (r : OpResult) : (s.setResult r).fw = s.fw := rfl
@[simp] theorem State.setResult_n (s : State) (r : OpResult) : (s.setResult r).n = s.n := rfl
@[simp] theorem State.setResult_run (s : State) (r : OpResult) : (s.setResult r).run = s.run := rfl
@[simp] theorem State.setResult_fb (s : State) (r : OpResult) : (s.setResult r).fb = s.fb := rfl
@[simp] theorem State.setResult_fbTrunc (s : State) (r : OpResult) : (s.setResult r).fbTrunc = s.fbTrunc := rfl
@[simp] theorem State.setResult_ser (s : State) (r : OpResult) : (s.setResult r).ser = s.ser := rfl
@[simp] theorem State.setResult_bb (s : State) (r : OpResult) : (s.setResult r).bb = s.bb := rfl
@[simp] theorem State.setResult_frames (s : State) (r : OpResult) : (s.setResult r).frames = s.frames := rfl
@[simp] theorem State.setResult_diags (s : State) (r : OpResult) : (s.setResult r).diags = s.diags := rfl
@[simp] theorem State.setResult_aux (s : State) (r : OpResult) : (s.setResult r).aux = s.aux := rfl
@[simp] theorem State.setResult_result (s : State) (r : OpResult) : (s.setResult r).result = r := rfl

@[simp] theorem State.setInBytes_cfg (s : State) (l : List Byte) : (s.setInBytes l).cfg = s.cfg := rfl
@[simp] theorem State.setInBytes_cfgIn (s : State) (l : List Byte) : (s.setInBytes l).cfgIn = s.cfgIn := rfl
@[simp] theorem State.setInBytes_rst (s : State) (l : List Byte) : (s.setInBytes l).rst = s.rst := rfl
@[simp] theorem State.setInBytes_inBytes (s : State) (l : List Byte) : (s.setInBytes l).inBytes = l := rfl
@[simp] theorem State.setInBytes_opBits (s : State) (l : List Byte) : (s.setInBytes l).opBits = s.opBits := rfl
@[simp] theorem State.setInBytes_diPhase (s : State) (l : List Byte) : (s.setInBytes l).diPhase = s.diPhase := rfl
@[simp] theorem State.setInBytes_diHold (s : State) (l : List Byte) : (s.setInBytes l).diHold = s.diHold := rfl
@[simp] theorem State.setInBytes_prevI (s : State) (l : List Byte) : (s.setInBytes l).prevI = s.prevI := rfl
@[simp] theorem State.setInBytes_prevQ (s : State) (l : List Byte) : (s.setInBytes l).prevQ = s.prevQ := rfl
@[simp] theorem State.setInBytes_pw (s : State) (l : List Byte) : (s.setInBytes l).pw = s.pw := rfl
@[simp] theorem State.setInBytes_fw (s : State) (l : List Byte) : (s.setInBytes l).fw = s.fw := rfl
@[simp] theorem State.setInBytes_n (s : State) (l : List Byte) : (s.setInBytes l).n = s.n := rfl
@[simp] theorem State.setInBytes_run (s : State) (l : List Byte) : (s.setInBytes l).run = s.run := rfl
@[simp] theorem State.setInBytes_fb (s : State) (l : List Byte) : (s.setInBytes l).fb = s.fb := rfl
@[simp] theorem State.setInBytes_fbTrunc (s : State) (l : List Byte) : (s.setInBytes l).fbTrunc = s.fbTrunc := rfl
@[simp] theorem State.setInBytes_ser (s : State) (l : List Byte) : (s.setInBytes l).ser = s.ser := rfl
@[simp] theorem State.setInBytes_bb (s : State) (l : List Byte) : (s.setInBytes l).bb = s.bb := rfl
@[simp] theorem State.setInBytes_frames (s : State) (l : List Byte) : (s.setInBytes l).frames = s.frames := rfl
@[simp] theorem State.setInBytes_diags (s : State) (l : List Byte) : (s.setInBytes l).diags = s.diags := rfl
@[simp] theorem State.setInBytes_aux (s : State) (l : List Byte) : (s.setInBytes l).aux = s.aux := rfl
@[simp] theorem State.setInBytes_result (s : State) (l : List Byte) : (s.setInBytes l).result = s.result := rfl

@[simp] theorem State.setOpBits_cfg (s : State) (l : List Bool) : (s.setOpBits l).cfg = s.cfg := rfl
@[simp] theorem State.setOpBits_cfgIn (s : State) (l : List Bool) : (s.setOpBits l).cfgIn = s.cfgIn := rfl
@[simp] theorem State.setOpBits_rst (s : State) (l : List Bool) : (s.setOpBits l).rst = s.rst := rfl
@[simp] theorem State.setOpBits_inBytes (s : State) (l : List Bool) : (s.setOpBits l).inBytes = s.inBytes := rfl
@[simp] theorem State.setOpBits_opBits (s : State) (l : List Bool) : (s.setOpBits l).opBits = l := rfl
@[simp] theorem State.setOpBits_diPhase (s : State) (l : List Bool) : (s.setOpBits l).diPhase = s.diPhase := rfl
@[simp] theorem State.setOpBits_diHold (s : State) (l : List Bool) : (s.setOpBits l).diHold = s.diHold := rfl
@[simp] theorem State.setOpBits_prevI (s : State) (l : List Bool) : (s.setOpBits l).prevI = s.prevI := rfl
@[simp] theorem State.setOpBits_prevQ (s : State) (l : List Bool) : (s.setOpBits l).prevQ = s.prevQ := rfl
@[simp] theorem State.setOpBits_pw (s : State) (l : List Bool) : (s.setOpBits l).pw = s.pw := rfl
@[simp] theorem State.setOpBits_fw (s : State) (l : List Bool) : (s.setOpBits l).fw = s.fw := rfl
@[simp] theorem State.setOpBits_n (s : State) (l : List Bool) : (s.setOpBits l).n = s.n := rfl
@[simp] theorem State.setOpBits_run (s : State) (l : List Bool) : (s.setOpBits l).run = s.run := rfl
@[simp] theorem State.setOpBits_fb (s : State) (l : List Bool) : (s.setOpBits l).fb = s.fb := rfl
@[simp] theorem State.setOpBits_fbTrunc (s : State) (l : List Bool) : (s.setOpBits l).fbTrunc = s.fbTrunc := rfl
@[simp] theorem State.setOpBits_ser (s : State) (l : List Bool) : (s.setOpBits l).ser = s.ser := rfl
@[simp] theorem State.setOpBits_bb (s : State) (l : List Bool) : (s.setOpBits l).bb = s.bb := rfl
@[simp] theorem State.setOpBits_frames (s : State) (l : List Bool) : (s.setOpBits l).frames = s.frames := rfl
@[simp] theorem State.setOpBits_diags (s : State) (l : List Bool) : (s.setOpBits l).diags = s.diags := rfl
@[simp] theorem State.setOpBits_aux (s : State) (l : List Bool) : (s.setOpBits l).aux = s.aux := rfl
@[simp] theorem State.setOpBits_result (s : State) (l : List Bool) : (s.setOpBits l).result = s.result := rfl

@[simp] theorem State.raise_cfg (s : State) (c : DiagCode) (x : Index) : (s.raise c x).cfg = s.cfg := rfl
@[simp] theorem State.raise_cfgIn (s : State) (c : DiagCode) (x : Index) : (s.raise c x).cfgIn = s.cfgIn := rfl
@[simp] theorem State.raise_rst (s : State) (c : DiagCode) (x : Index) : (s.raise c x).rst = s.rst := rfl
@[simp] theorem State.raise_inBytes (s : State) (c : DiagCode) (x : Index) : (s.raise c x).inBytes = s.inBytes := rfl
@[simp] theorem State.raise_opBits (s : State) (c : DiagCode) (x : Index) : (s.raise c x).opBits = s.opBits := rfl
@[simp] theorem State.raise_diPhase (s : State) (c : DiagCode) (x : Index) : (s.raise c x).diPhase = s.diPhase := rfl
@[simp] theorem State.raise_diHold (s : State) (c : DiagCode) (x : Index) : (s.raise c x).diHold = s.diHold := rfl
@[simp] theorem State.raise_prevI (s : State) (c : DiagCode) (x : Index) : (s.raise c x).prevI = s.prevI := rfl
@[simp] theorem State.raise_prevQ (s : State) (c : DiagCode) (x : Index) : (s.raise c x).prevQ = s.prevQ := rfl
@[simp] theorem State.raise_pw (s : State) (c : DiagCode) (x : Index) : (s.raise c x).pw = s.pw := rfl
@[simp] theorem State.raise_fw (s : State) (c : DiagCode) (x : Index) : (s.raise c x).fw = s.fw := rfl
@[simp] theorem State.raise_n (s : State) (c : DiagCode) (x : Index) : (s.raise c x).n = s.n := rfl
@[simp] theorem State.raise_run (s : State) (c : DiagCode) (x : Index) : (s.raise c x).run = s.run := rfl
@[simp] theorem State.raise_fb (s : State) (c : DiagCode) (x : Index) : (s.raise c x).fb = s.fb := rfl
@[simp] theorem State.raise_fbTrunc (s : State) (c : DiagCode) (x : Index) : (s.raise c x).fbTrunc = s.fbTrunc := rfl
@[simp] theorem State.raise_ser (s : State) (c : DiagCode) (x : Index) : (s.raise c x).ser = s.ser := rfl
@[simp] theorem State.raise_bb (s : State) (c : DiagCode) (x : Index) : (s.raise c x).bb = s.bb := rfl
@[simp] theorem State.raise_frames (s : State) (c : DiagCode) (x : Index) : (s.raise c x).frames = s.frames := rfl
@[simp] theorem State.raise_diags (s : State) (c : DiagCode) (x : Index) : (s.raise c x).diags = s.diags ++ [⟨c, x⟩] := rfl
@[simp] theorem State.raise_aux (s : State) (c : DiagCode) (x : Index) : (s.raise c x).aux = s.aux := rfl
@[simp] theorem State.raise_result (s : State) (c : DiagCode) (x : Index) : (s.raise c x).result = s.result := rfl

@[simp] theorem State.emit_cfg (s : State) (e : FrameEvent) : (s.emit e).cfg = s.cfg := rfl
@[simp] theorem State.emit_cfgIn (s : State) (e : FrameEvent) : (s.emit e).cfgIn = s.cfgIn := rfl
@[simp] theorem State.emit_rst (s : State) (e : FrameEvent) : (s.emit e).rst = s.rst := rfl
@[simp] theorem State.emit_inBytes (s : State) (e : FrameEvent) : (s.emit e).inBytes = s.inBytes := rfl
@[simp] theorem State.emit_opBits (s : State) (e : FrameEvent) : (s.emit e).opBits = s.opBits := rfl
@[simp] theorem State.emit_diPhase (s : State) (e : FrameEvent) : (s.emit e).diPhase = s.diPhase := rfl
@[simp] theorem State.emit_diHold (s : State) (e : FrameEvent) : (s.emit e).diHold = s.diHold := rfl
@[simp] theorem State.emit_prevI (s : State) (e : FrameEvent) : (s.emit e).prevI = s.prevI := rfl
@[simp] theorem State.emit_prevQ (s : State) (e : FrameEvent) : (s.emit e).prevQ = s.prevQ := rfl
@[simp] theorem State.emit_pw (s : State) (e : FrameEvent) : (s.emit e).pw = s.pw := rfl
@[simp] theorem State.emit_fw (s : State) (e : FrameEvent) : (s.emit e).fw = s.fw := rfl
@[simp] theorem State.emit_n (s : State) (e : FrameEvent) : (s.emit e).n = s.n := rfl
@[simp] theorem State.emit_run (s : State) (e : FrameEvent) : (s.emit e).run = s.run := rfl
@[simp] theorem State.emit_fb (s : State) (e : FrameEvent) : (s.emit e).fb = s.fb := rfl
@[simp] theorem State.emit_fbTrunc (s : State) (e : FrameEvent) : (s.emit e).fbTrunc = s.fbTrunc := rfl
@[simp] theorem State.emit_ser (s : State) (e : FrameEvent) : (s.emit e).ser = s.ser := rfl
@[simp] theorem State.emit_bb (s : State) (e : FrameEvent) : (s.emit e).bb = s.bb := rfl
@[simp] theorem State.emit_frames (s : State) (e : FrameEvent) : (s.emit e).frames = s.frames ++ [e] := rfl
@[simp] theorem State.emit_diags (s : State) (e : FrameEvent) : (s.emit e).diags = s.diags := rfl
@[simp] theorem State.emit_aux (s : State) (e : FrameEvent) : (s.emit e).aux = s.aux := rfl
@[simp] theorem State.emit_result (s : State) (e : FrameEvent) : (s.emit e).result = s.result := rfl

@[simp] theorem State.deliverAux_cfg (s : State) (a : AuxSample) : (s.deliverAux a).cfg = s.cfg := rfl
@[simp] theorem State.deliverAux_cfgIn (s : State) (a : AuxSample) : (s.deliverAux a).cfgIn = s.cfgIn := rfl
@[simp] theorem State.deliverAux_rst (s : State) (a : AuxSample) : (s.deliverAux a).rst = s.rst := rfl
@[simp] theorem State.deliverAux_inBytes (s : State) (a : AuxSample) : (s.deliverAux a).inBytes = s.inBytes := rfl
@[simp] theorem State.deliverAux_opBits (s : State) (a : AuxSample) : (s.deliverAux a).opBits = s.opBits := rfl
@[simp] theorem State.deliverAux_diPhase (s : State) (a : AuxSample) : (s.deliverAux a).diPhase = s.diPhase := rfl
@[simp] theorem State.deliverAux_diHold (s : State) (a : AuxSample) : (s.deliverAux a).diHold = s.diHold := rfl
@[simp] theorem State.deliverAux_prevI (s : State) (a : AuxSample) : (s.deliverAux a).prevI = s.prevI := rfl
@[simp] theorem State.deliverAux_prevQ (s : State) (a : AuxSample) : (s.deliverAux a).prevQ = s.prevQ := rfl
@[simp] theorem State.deliverAux_pw (s : State) (a : AuxSample) : (s.deliverAux a).pw = s.pw := rfl
@[simp] theorem State.deliverAux_fw (s : State) (a : AuxSample) : (s.deliverAux a).fw = s.fw := rfl
@[simp] theorem State.deliverAux_n (s : State) (a : AuxSample) : (s.deliverAux a).n = s.n := rfl
@[simp] theorem State.deliverAux_run (s : State) (a : AuxSample) : (s.deliverAux a).run = s.run := rfl
@[simp] theorem State.deliverAux_fb (s : State) (a : AuxSample) : (s.deliverAux a).fb = s.fb := rfl
@[simp] theorem State.deliverAux_fbTrunc (s : State) (a : AuxSample) : (s.deliverAux a).fbTrunc = s.fbTrunc := rfl
@[simp] theorem State.deliverAux_ser (s : State) (a : AuxSample) : (s.deliverAux a).ser = s.ser := rfl
@[simp] theorem State.deliverAux_bb (s : State) (a : AuxSample) : (s.deliverAux a).bb = s.bb := rfl
@[simp] theorem State.deliverAux_frames (s : State) (a : AuxSample) : (s.deliverAux a).frames = s.frames := rfl
@[simp] theorem State.deliverAux_diags (s : State) (a : AuxSample) : (s.deliverAux a).diags = s.diags := rfl
@[simp] theorem State.deliverAux_aux (s : State) (a : AuxSample) : (s.deliverAux a).aux = s.aux ++ [a] := rfl
@[simp] theorem State.deliverAux_result (s : State) (a : AuxSample) : (s.deliverAux a).result = s.result := rfl

@[simp] theorem State.setWindow_cfg (s : State) (sel : WindowSel) (w : Window) : (s.setWindow sel w).cfg = s.cfg := by cases sel <;> rfl
@[simp] theorem State.setWindow_cfgIn (s : State) (sel : WindowSel) (w : Window) : (s.setWindow sel w).cfgIn = s.cfgIn := by cases sel <;> rfl
@[simp] theorem State.setWindow_rst (s : State) (sel : WindowSel) (w : Window) : (s.setWindow sel w).rst = s.rst := by cases sel <;> rfl
@[simp] theorem State.setWindow_inBytes (s : State) (sel : WindowSel) (w : Window) : (s.setWindow sel w).inBytes = s.inBytes := by cases sel <;> rfl
@[simp] theorem State.setWindow_opBits (s : State) (sel : WindowSel) (w : Window) : (s.setWindow sel w).opBits = s.opBits := by cases sel <;> rfl
@[simp] theorem State.setWindow_diPhase (s : State) (sel : WindowSel) (w : Window) : (s.setWindow sel w).diPhase = s.diPhase := by cases sel <;> rfl
@[simp] theorem State.setWindow_diHold (s : State) (sel : WindowSel) (w : Window) : (s.setWindow sel w).diHold = s.diHold := by cases sel <;> rfl
@[simp] theorem State.setWindow_prevI (s : State) (sel : WindowSel) (w : Window) : (s.setWindow sel w).prevI = s.prevI := by cases sel <;> rfl
@[simp] theorem State.setWindow_prevQ (s : State) (sel : WindowSel) (w : Window) : (s.setWindow sel w).prevQ = s.prevQ := by cases sel <;> rfl
@[simp] theorem State.setWindow_n (s : State) (sel : WindowSel) (w : Window) : (s.setWindow sel w).n = s.n := by cases sel <;> rfl
@[simp] theorem State.setWindow_run (s : State) (sel : WindowSel) (w : Window) : (s.setWindow sel w).run = s.run := by cases sel <;> rfl
@[simp] theorem State.setWindow_fb (s : State) (sel : WindowSel) (w : Window) : (s.setWindow sel w).fb = s.fb := by cases sel <;> rfl
@[simp] theorem State.setWindow_fbTrunc (s : State) (sel : WindowSel) (w : Window) : (s.setWindow sel w).fbTrunc = s.fbTrunc := by cases sel <;> rfl
@[simp] theorem State.setWindow_ser (s : State) (sel : WindowSel) (w : Window) : (s.setWindow sel w).ser = s.ser := by cases sel <;> rfl
@[simp] theorem State.setWindow_bb (s : State) (sel : WindowSel) (w : Window) : (s.setWindow sel w).bb = s.bb := by cases sel <;> rfl
@[simp] theorem State.setWindow_frames (s : State) (sel : WindowSel) (w : Window) : (s.setWindow sel w).frames = s.frames := by cases sel <;> rfl
@[simp] theorem State.setWindow_diags (s : State) (sel : WindowSel) (w : Window) : (s.setWindow sel w).diags = s.diags := by cases sel <;> rfl
@[simp] theorem State.setWindow_aux (s : State) (sel : WindowSel) (w : Window) : (s.setWindow sel w).aux = s.aux := by cases sel <;> rfl
@[simp] theorem State.setWindow_result (s : State) (sel : WindowSel) (w : Window) : (s.setWindow sel w).result = s.result := by cases sel <;> rfl

@[simp] theorem State.setWindow_power_pw (s : State) (w : Window) : (s.setWindow .power w).pw = w := rfl
@[simp] theorem State.setWindow_power_fw (s : State) (w : Window) : (s.setWindow .power w).fw = s.fw := rfl
@[simp] theorem State.setWindow_phase_pw (s : State) (w : Window) : (s.setWindow .phase w).pw = s.pw := rfl
@[simp] theorem State.setWindow_phase_fw (s : State) (w : Window) : (s.setWindow .phase w).fw = w := rfl
@[simp] theorem State.window_power (s : State) : s.window .power = s.pw := rfl
@[simp] theorem State.window_phase (s : State) : s.window .phase = s.fw := rfl

@[simp] theorem State.window_setWindow (s : State) (sel : WindowSel) (w : Window) :
    (s.setWindow sel w).window sel = w := by cases sel <;> rfl

end Sys2Proof.Machine
end

