-- ==== Sys2Proof/Laws/Attempt.lean ====
section
/-! SUPPORT. What holds all through one frame attempt (spec/45_uart_deserializer.md R211, R218; spec/60_exceptions.md
R283), and the two ways the loop over the entries ends. -/

namespace Sys2Proof.Machine

/-- The attempt started at `x` with the diagnostics `d0`, and has raised truncation and parity at most once each, exactly
when their flags are set. -/
def Attempt (x : Index) (d0 : List DiagEvent) (s : State) : Prop :=
  s.bb.start = x ∧ ∃ mid, s.diags = d0 ++ mid ∧ (∀ d ∈ mid, d = ⟨.bbTrunc, x⟩ ∨ d = ⟨.perr, x⟩) ∧ mid.Nodup ∧
    (⟨.bbTrunc, x⟩ ∈ mid ↔ s.bb.trunc = true) ∧ (⟨.perr, x⟩ ∈ mid ↔ s.bb.perr = true)

theorem serStart_attempt (x : Index) (s : State) : Attempt x s.diags (serStart x s) :=
  ⟨rfl, [], by simp [serStart, ByteBuffer.empty]⟩

theorem setBbTrunc_attempt {x : Index} {d0 : List DiagEvent} {s : State} (h : Attempt x d0 s) :
    Attempt x d0 (setBbTrunc s) := by
  obtain ⟨hx, mid, h1, h2, h3, h4, h5⟩ := h
  unfold setBbTrunc
  by_cases ht : s.bb.trunc = true
  · simp only [ht, if_true]
    exact ⟨hx, mid, h1, h2, h3, by simpa [ht, State.setBb] using h4, h5⟩
  · simp only [ht, Bool.false_eq_true, if_false]
    refine ⟨hx, mid ++ [⟨.bbTrunc, x⟩], ?_, ?_, ?_, ?_, ?_⟩
    · simp [State.setBb, State.raise, h1, hx]
    · intro d hd
      rcases List.mem_append.mp hd with hd | hd
      · exact h2 d hd
      · exact .inl (by simpa using hd)
    · rw [List.nodup_append]
      exact ⟨h3, by simp, fun a ha b hb e => ht (h4.mp (by simp at hb; rw [← hb, ← e]; exact ha))⟩
    · simp [State.setBb]
    · simp [State.setBb, State.raise, ← h5]

theorem setBbPerr_attempt {x : Index} {d0 : List DiagEvent} {s : State} (h : Attempt x d0 s) :
    Attempt x d0 (setBbPerr s) := by
  obtain ⟨hx, mid, h1, h2, h3, h4, h5⟩ := h
  unfold setBbPerr
  by_cases ht : s.bb.perr = true
  · simp only [ht, if_true]
    exact ⟨hx, mid, h1, h2, h3, h4, by simpa [ht, State.setBb] using h5⟩
  · simp only [ht, Bool.false_eq_true, if_false]
    refine ⟨hx, mid ++ [⟨.perr, x⟩], ?_, ?_, ?_, ?_, ?_⟩
    · simp [State.setBb, State.raise, h1, hx]
    · intro d hd
      rcases List.mem_append.mp hd with hd | hd
      · exact h2 d hd
      · exact .inr (by simpa using hd)
    · rw [List.nodup_append]
      exact ⟨h3, by simp, fun a ha b hb e => ht (h5.mp (by simp at hb; rw [← hb, ← e]; exact ha))⟩
    · simp [State.setBb, State.raise, ← h4]
    · simp [State.setBb]

theorem storeByte_attempt {x : Index} {d0 : List DiagEvent} {s : State} (v : Byte) (p : Bool) (h : Attempt x d0 s) :
    Attempt x d0 (storeByte v p s) := by
  have h1 : Attempt x d0
      (if s.bbLen < s.cfg.byteCap then s.setBb { s.bb with bytes := s.bb.bytes ++ [v] } else setBbTrunc s) := by
    split
    · exact h
    · exact setBbTrunc_attempt h
  unfold storeByte
  cases p
  · simpa using h1
  · simpa using setBbPerr_attempt h1

theorem serBit_attempt {x : Index} {d0 : List DiagEvent} {s : State} (b : Level) (h : Attempt x d0 s) :
    Attempt x d0 (serBit b s).1 := by
  unfold serBit
  split
  · cases b <;> exact h
  · exact h
  · exact h
  · unfold serStop
    cases b with
    | low => exact h
    | high =>
      dsimp only
      split
      · exact h
      · exact storeByte_attempt _ _ h

theorem serRun_attempt {x : Index} {d0 : List DiagEvent} {s : State} (b : Level) (k : Nat) (h : Attempt x d0 s) :
    Attempt x d0 (serRun b k s).1 := by
  induction k generalizing s with
  | zero => exact h
  | succ k ih =>
    have hb := serBit_attempt b h
    unfold serRun
    split <;> rename_i heq <;> rw [heq] at hb
    · exact hb
    · exact ih hb
    · exact ih hb

/-- A framing error leaves the state machine in `WAIT`. -/
theorem serBit_ferr {b : Level} {s t : State} (h : serBit b s = (t, .ferr)) : t.ser.state = .wait := by
  unfold serBit at h
  split at h
  · simp at h
  · simp at h
  · simp at h
  · unfold serStop at h
    cases b with
    | low =>
      simp at h
      rw [← h]
      rfl
    | high =>
      dsimp only at h
      split at h
      · simp at h
      · simp [emitByte] at h

theorem serRun_ferr {b : Level} {k : Nat} {s t : State} (h : serRun b k s = (t, .ferr)) : t.ser.state = .wait := by
  induction k generalizing s with
  | zero => simp [serRun] at h
  | succ k ih =>
    unfold serRun at h
    split at h
    · rename_i heq
      simp at h
      subst h
      exact serBit_ferr heq
    · exact ih h
    · exact ih h

/-- The loop of R211 step 2 ends without a framing error, or with the diagnostic of the entry at which one occurred. -/
theorem serEntries_cases {x : Index} {d0 : List DiagEvent} {s : State} (es : List ClassifiedBit) (h : Attempt x d0 s) :
    (∃ t, serEntries es s = (t, .ok) ∧ Attempt x d0 t) ∨
    (∃ t, ∃ e ∈ es, serEntries es s = (t.raise .ferr e.start, .ferr) ∧ Attempt x d0 t ∧ t.ser.state = .wait) := by
  induction es generalizing s with
  | nil => exact .inl ⟨s, rfl, h⟩
  | cons e es ih =>
    have hr := serRun_attempt (levelOf e.val) e.len.toNat h
    unfold serEntries
    split <;> rename_i heq <;> rw [heq] at hr
    · exact .inr ⟨_, e, by simp, rfl, hr, serRun_ferr heq⟩
    · rcases ih hr with ht | ⟨t, f, hf, ht⟩
      · exact .inl ht
      · exact .inr ⟨t, f, by simp [hf], ht⟩

end Sys2Proof.Machine
end

