-- ==== Sys2Proof/Laws/Bits.lean ====
section
/-! SUPPORT. Reading back what was written, field by field: bits, symbols, window selects, bit events. -/

namespace Sys2Proof

theorem bitsOfNat_length (n x : Nat) : (bitsOfNat n x).length = n := by
  induction n with
  | zero => rfl
  | succ n ih => simp [bitsOfNat, ih]

@[simp] theorem fieldBits_length {n : Nat} (x : BitVec n) : (fieldBits x).length = n := bitsOfNat_length n _

theorem readBits_bitsOfNat (n x : Nat) (rest : List Bool) :
    readBits n (bitsOfNat n x ++ rest) = some (x % 2 ^ n, rest) := by
  induction n with
  | zero => simp [readBits, bitsOfNat, Nat.mod_one]
  | succ n ih =>
    simp only [bitsOfNat, List.cons_append, readBits, ih, Option.some.injEq, Prod.mk.injEq, and_true]
    rw [Nat.mod_pow_succ, Nat.toNat_testBit, Nat.mul_comm, Nat.add_comm]

/-- What `readBits` answers is read from the front of the sequence. -/
theorem readBits_inv {n v : Nat} {l rest : List Bool} (h : readBits n l = some (v, rest)) :
    v < 2 ^ n ∧ bitsOfNat n v ++ rest = l := by
  induction n generalizing l v with
  | zero =>
    obtain ⟨rfl, rfl⟩ : 0 = v ∧ l = rest := by simpa [readBits] using h
    exact ⟨Nat.one_pos, rfl⟩
  | succ n ih =>
    cases l with
    | nil => simp [readBits] at h
    | cons b l =>
      simp only [readBits] at h
      split at h
      · next w r hr =>
        obtain ⟨rfl, rfl⟩ : b.toNat * 2 ^ n + w = v ∧ r = rest := by simpa using h
        obtain ⟨hw, rfl⟩ := ih hr
        have hlow : bitsOfNat n (b.toNat * 2 ^ n + w) = bitsOfNat n w := by
          have key : ∀ m ≤ n, bitsOfNat m (b.toNat * 2 ^ n + w) = bitsOfNat m w := by
            intro m hm
            induction m with
            | zero => rfl
            | succ m ihm =>
              rw [bitsOfNat, bitsOfNat, ihm (by omega), Nat.mul_comm, Nat.testBit_two_pow_mul_add _ hw, if_pos (by omega)]
          exact key n le_rfl
        refine ⟨?_, ?_⟩
        · have : b.toNat ≤ 1 := by cases b <;> simp
          rw [pow_succ]; nlinarith
        · simp only [bitsOfNat, hlow, List.cons_append, List.cons.injEq, and_true]
          rw [Nat.mul_comm, Nat.testBit_two_pow_mul_add _ hw, if_neg (by omega)]
          cases b <;> simp
      · exact absurd h (by simp)

@[simp] theorem withField_fieldBits {n : Nat} (x : BitVec n) (rest : List Bool) (k : BitVec n → List Bool → Decoded) :
    withField n (fieldBits x ++ rest) k = k x rest := by
  simp [withField, fieldBits, readBits_bitsOfNat, Nat.mod_eq_of_lt x.isLt]

@[simp] theorem symbolOfCode_symbolCode (s : Symbol) : symbolOfCode (symbolCode s) = some s := by
  cases s <;> rfl

@[simp] theorem windowOfCode_windowCode (w : WindowSel) : windowOfCode (windowCode w) = w := by cases w <;> rfl

@[simp] theorem levelOfCode_levelCode (b : Level) : levelOfCode (levelCode b) = b := by cases b <;> rfl

@[simp] theorem withSymbol_fieldBits (s : Symbol) (rest : List Bool) (k : Symbol → List Bool → Decoded) :
    withSymbol (fieldBits (symbolCode s) ++ rest) k = k s rest := by
  simp [withSymbol]

/-- The OPID is read first and selects the operand fields. -/
theorem decode_opid (opid : BitVec 4) (rest : List Bool) :
    decode (fieldBits opid ++ rest) = decodeBody opid.toNat rest := by
  simp [decode, fieldBits, readBits_bitsOfNat, Nat.mod_eq_of_lt opid.isLt]

end Sys2Proof
end

