-- ==== Sys2Proof/Laws/Config.lean ====
section
/-! SUPPORT. The bounds a legal configuration gives (spec/00_scope.md R9). -/

namespace Sys2Proof

theorem WindowSel.admits_iff {w : WindowSel} {v : Int} : w.admits v = true ↔ w.lo ≤ v ∧ v ≤ w.hi := by
  simp [WindowSel.admits]

theorem Config.legal_rates {c : Config} (h : c.legal = true) :
    1 ≤ c.sampleRate ∧ c.sampleRate < 2 ^ 32 ∧ 1 ≤ c.bitRate ∧ c.bitRate ≤ c.sampleRate := by
  simp only [Config.legal, Bool.and_eq_true, Config.ratesLegal, decide_eq_true_eq] at h
  exact h.1.1.1.1.1

theorem Config.legal_classifier {c : Config} (h : c.legal = true) :
    1 ≤ c.shift ∧ c.shift ≤ 15 ∧ c.acceptThresh ≤ 2 ^ (c.shift - 1) := by
  simp only [Config.legal, Bool.and_eq_true, Config.classifierLegal, decide_eq_true_eq] at h
  exact h.1.1.1.1.2

theorem Config.legal_windows {c : Config} (h : c.legal = true) :
    (-1 ≤ c.pwrThresh ∧ c.pwrThresh ≤ 5 ∧ 1 ≤ c.pwrWinN ∧ c.pwrWinN ≤ 65535 ∧ 1 ≤ c.phWinN ∧ c.phWinN ≤ 65535) ∧
    WindowSel.power.admits c.pwrWinInit = true ∧ WindowSel.phase.admits c.phWinInit = true := by
  simp only [Config.legal, Bool.and_eq_true, Config.windowsLegal, decide_eq_true_eq] at h
  exact ⟨h.1.1.1.2.1.1, h.1.1.1.2.1.2, h.1.1.1.2.2⟩

theorem Config.legal_buffers {c : Config} (h : c.legal = true) :
    1 ≤ c.fbCap ∧ c.fbCap ≤ 65535 ∧ 4 ≤ c.byteCap ∧ c.byteCap ≤ 65535 ∧
    1 ≤ c.syncPattern.length ∧ c.syncPattern.length ≤ c.fbCap ∧
    ∀ p ∈ c.syncPattern, p.val ≠ .zero ∧ p.len ≠ 0 := by
  simp only [Config.legal, Bool.and_eq_true, Config.buffersLegal, decide_eq_true_eq] at h
  exact h.1.1.2

theorem Config.legal_framing {c : Config} (h : c.legal = true) :
    1 ≤ c.dataBits ∧ c.dataBits ≤ 8 ∧ 1 ≤ c.stopBits ∧ c.stopBits ≤ 3 := by
  simp only [Config.legal, Bool.and_eq_true, Config.framingLegal, decide_eq_true_eq] at h
  exact h.1.2

theorem Config.legal_tables {c : Config} (h : c.legal = true) :
    c.kinds.length ≤ 2 ∧ (∀ r ∈ c.kinds, r.kind = 1 ∨ r.kind = 2) ∧
    c.digitPatterns.length = 10 ∧ c.digitPatterns.Nodup ∧
    c.fieldMap.length ≤ 255 ∧ ∀ f ∈ c.fieldMap, f.ftype = 0 ∨ f.ftype = 1 := by
  simp only [Config.legal, Bool.and_eq_true, Config.tablesLegal, decide_eq_true_eq] at h
  exact h.2

end Sys2Proof
end

