-- ==== Sys2Proof/Laws/Outcome.lean ====
section
/-! SUPPORT. How an operation answers: everything `complete` can do. -/

namespace Sys2Proof.Machine

theorem complete_next {i : Instr} {s s' : State} (hd : i.defect = none) (hl : s.cfg.legal = true) :
    complete i s s' = .next s' := by
  simp [complete, hd, hl]

theorem complete_eq_next {i : Instr} {s s' t : State} :
    complete i s s' = .next t ↔ i.defect = none ∧ s.cfg.legal = true ∧ s' = t := by
  unfold complete
  split
  · simp [*]
  · split <;> simp [*]

theorem complete_ne_next {i : Instr} {s s' : State} (h : i.defect ≠ none ∨ s.cfg.legal = false) :
    complete i s s' = .refused .illegalConfig ∨ ∃ d, i.defect = some d ∧ complete i s s' = .refused (.invalidOperand d) := by
  unfold complete
  split
  · next d hd => exact .inr ⟨d, hd, rfl⟩
  · next hd => exact .inl (by simp [h.resolve_left (by simp [hd])])

theorem wellFormed_iff {i : Instr} : i.wellFormed = true ↔ i.defect = none := by
  simp [Instr.wellFormed]

end Sys2Proof.Machine
end

