-- ==== Sys2Proof/Laws/Exec.lean ====
section
/-! SUPPORT. From `exec` to the effect of an operation and back: every arm but RESET is `complete` of one effect.
And everything a step can do when it has a next state. -/

namespace Sys2Proof.Machine

/-- An operation completes with its effect when its operands are in range and the configuration is legal. -/
theorem exec_next {i : Instr} {s s' : State} (e : exec i s = complete i s s') (hd : i.defect = none)
    (hl : s.cfg.legal = true) : exec i s = .next s' :=
  e.trans (complete_next hd hl)

/-- A next state of an operation is its effect, in a block with a legal configuration. -/
theorem next_exec {i : Instr} {s s' t : State} (e : exec i s = complete i s s') (h : exec i s = .next t) :
    i.defect = none ∧ s.cfg.legal = true ∧ s' = t :=
  complete_eq_next.mp (e.symm.trans h)

/-- RESET has a next state exactly for legal configuration inputs. -/
theorem execReset_eq_next {s t : State} :
    exec .reset s = .next t ↔ s.cfgIn.legal = true ∧ (resetBlock s).setResult .none = t := by
  show (if s.cfgIn.legal then _ else _) = _ ↔ _
  cases s.cfgIn.legal <;> simp

/-- A step with nothing offered has a next state exactly under a legal configuration, and it is the same state. -/
theorem idleStep_eq_next {s t : State} : idleStep s = .next t ↔ s.cfg.legal = true ∧ s = t := by
  unfold idleStep
  cases s.cfg.legal <;> simp

/-- A step with a next state performs the operation fetched, or idles under a legal configuration. -/
theorem step_eq_next {s t : State} : step s = .next t ↔
    (∃ i s', fetch s = .run i s' ∧ exec i s' = .next t) ∨ (fetch s = .idle ∧ s.cfg.legal = true ∧ s = t) := by
  unfold step
  cases fetch s with
  | run i s' =>
    refine ⟨fun h => .inl ⟨i, s', rfl, h⟩, ?_⟩
    rintro (⟨_, _, hf, h⟩ | ⟨hf, -⟩)
    · cases hf
      exact h
    · cases hf
  | invalid e => simp
  | idle => simp [idleStep_eq_next]

end Sys2Proof.Machine
end

