-- ==== Sys2Proof/Laws/Feed.lean ====
section
/-! SUPPORT. Feeding bit events one at a time (`feedBits`), and the two loops of R211 step 2 in terms of it: an entry, and
the entries of the suffix, each up to the first framing error (spec/45_uart_deserializer.md). -/

namespace Sys2Proof.Machine

theorem feedBits_append (a b : List Level) (s : State) :
    feedBits (a ++ b) s = ((feedBits b (feedBits a s).1).1, (feedBits a s).2 ++ (feedBits b (feedBits a s).1).2) := by
  induction a generalizing s with
  | nil => rfl
  | cons x a ih => simp [feedBits, ih]

@[simp] theorem feedBits_length (l : List Level) (s : State) : (feedBits l s).2.length = l.length := by
  induction l generalizing s with
  | nil => rfl
  | cons x l ih => simp [feedBits, ih]

/-- The bit events of `l` are fed up to the first framing error, if there is one: `o` is the state and the result then. -/
def FedTo (l : List Level) (s : State) (o : State × FrameResult) : Prop :=
  (.ferr ∉ (feedBits l s).2 ∧ o = ((feedBits l s).1, .ok)) ∨
  ∃ k, (feedBits l s).2[k]? = some .ferr ∧ (∀ j, j < k → (feedBits l s).2[j]? ≠ some .ferr) ∧
    o = ((feedBits (l.take (k + 1)) s).1, .ferr)

theorem fedTo_nil (s : State) : FedTo [] s (s, .ok) := .inl ⟨by simp [feedBits], rfl⟩

/-- A framing error at the first bit event ends the loop there. -/
theorem fedTo_cons_ferr {b : Level} {l : List Level} {s : State} (h : (serBit b s).2 = .ferr) :
    FedTo (b :: l) s ((serBit b s).1, .ferr) :=
  .inr ⟨0, by simp [feedBits, h], by simp, by simp [feedBits]⟩

/-- Any other result of the first bit event goes on with the next. -/
theorem fedTo_cons {b : Level} {l : List Level} {s : State} {o : State × FrameResult} (h : (serBit b s).2 ≠ .ferr)
    (hl : FedTo l (serBit b s).1 o) : FedTo (b :: l) s o := by
  rcases hl with ⟨hn, rfl⟩ | ⟨k, hk, hj, rfl⟩
  · exact .inl ⟨by simpa [feedBits, hn] using h.symm, rfl⟩
  · refine .inr ⟨k + 1, by simpa [feedBits] using hk, fun j hlt => ?_, by simp [feedBits]⟩
    cases j with
    | zero => simpa [feedBits] using h
    | succ j => simpa [feedBits] using hj j (by omega)

/-- The bit events of one entry (R106). -/
theorem serRun_fedTo (b : Level) (k : Nat) (s : State) : FedTo (List.replicate k b) s (serRun b k s) := by
  induction k generalizing s with
  | zero => exact fedTo_nil s
  | succ k ih =>
    unfold serRun
    split <;> rename_i heq
    · have h := fedTo_cons_ferr (b := b) (l := List.replicate k b) (s := s) (by rw [heq])
      rwa [heq] at h
    · exact fedTo_cons (by simp [heq]) (by rw [heq]; exact ih _)
    · exact fedTo_cons (by simp [heq]) (by rw [heq]; exact ih _)

/-- The loop over the entries (R211 step 2): all bit events are fed and none is a framing error; or those up to the first
framing error are, and the diagnostic names the entry that holds it. -/
theorem serEntries_feed (es : List ClassifiedBit) (s : State) :
    (.ferr ∉ (feedBits (expand es) s).2 ∧ serEntries es s = ((feedBits (expand es) s).1, .ok)) ∨
    ∃ before e behind k, es = before ++ e :: behind ∧
      (expand before).length ≤ k ∧ k < (expand before).length + e.len.toNat ∧
      (feedBits (expand es) s).2[k]? = some .ferr ∧ (∀ j, j < k → (feedBits (expand es) s).2[j]? ≠ some .ferr) ∧
      serEntries es s = ((feedBits ((expand es).take (k + 1)) s).1.raise .ferr e.start, .ferr) := by
  induction es generalizing s with
  | nil => exact .inl ⟨by simp [expand, feedBits], rfl⟩
  | cons e es ih =>
    have hx : expand (e :: es) = List.replicate e.len.toNat (levelOf e.val) ++ expand es := by simp [expand]
    have hrun := serRun_fedTo (levelOf e.val) e.len.toNat s
    have hlen := feedBits_length (List.replicate e.len.toNat (levelOf e.val)) s
    rw [List.length_replicate] at hlen
    rw [hx, feedBits_append]
    generalize List.replicate e.len.toNat (levelOf e.val) = l at *
    unfold serEntries
    rcases hrun with ⟨hn, ho⟩ | ⟨k, hk, hj, ho⟩ <;> rw [ho]
    · have hlen' : l.length = e.len.toNat := by simpa using hlen
      rcases ih (feedBits l s).1 with ⟨hn', h⟩ | ⟨before, f, behind, k, rfl, h1, h2, h3, h4, h5⟩
      · exact .inl ⟨by simp [hn, hn'], by simp [h]⟩
      · have hb : (expand (e :: before)).length = e.len.toNat + (expand before).length := by
          simp [expand]
        refine .inr ⟨e :: before, f, behind, e.len.toNat + k, rfl, by omega, by omega, ?_, fun j hlt => ?_, ?_⟩
        · rw [List.getElem?_append_right (by omega), hlen]
          simpa using h3
        · rcases Nat.lt_or_ge j e.len.toNat with hl | hl
          · rw [List.getElem?_append_left (by omega)]
            exact fun h => hn (List.mem_of_getElem? h)
          · rw [List.getElem?_append_right (by omega), hlen]
            exact h4 _ (by omega)
        · rw [List.take_append, List.take_of_length_le (by omega), feedBits_append]
          simp only [hlen', h5]
          rw [show e.len.toNat + k + 1 - e.len.toNat = k + 1 by omega]
    · have hlt : k < e.len.toNat := by
        have := (List.getElem?_eq_some_iff.mp hk).1
        omega
      refine .inr ⟨[], e, es, k, rfl, by simp [expand], by simpa [expand] using hlt, ?_, fun j h => ?_, ?_⟩
      · rw [List.getElem?_append_left (by omega), hk]
      · rw [List.getElem?_append_left (by omega)]
        exact hj j h
      · rw [List.take_append_of_le_length (by rw [feedBits_length] at hlen; omega)]

end Sys2Proof.Machine
end

