-- ==== Sys2Proof/Laws/Frame.lean ====
section
/-! SUPPORT. Which fields of State each shared operation can change, said once per operation as one equation. -/

namespace Sys2Proof.Machine

/-- `t` differs from `s` at most in the serial registers, the byte buffer and the diagnostics. -/
def SerialOnly (s t : State) : Prop := t = { s with ser := t.ser, bb := t.bb, diags := t.diags }

/-- `t` differs from `s` at most in the outputs. -/
def ReportOnly (s t : State) : Prop := t = { s with frames := t.frames, diags := t.diags }

/-- `t` differs from `s` at most in what a gap touches. -/
def GapOnly (s t : State) : Prop :=
  t = { s with fb := t.fb, fbTrunc := t.fbTrunc, ser := t.ser, bb := t.bb, frames := t.frames, diags := t.diags }

/-- `t` differs from `s` at most in what the processing of one sample touches. -/
def SampleOnly (s t : State) : Prop :=
  t = { s with
    prevI := t.prevI, prevQ := t.prevQ, pw := t.pw, fw := t.fw, n := t.n, run := t.run, fb := t.fb,
    fbTrunc := t.fbTrunc, ser := t.ser, bb := t.bb, frames := t.frames, diags := t.diags, aux := t.aux }

theorem SerialOnly.refl (s : State) : SerialOnly s s := rfl

theorem SerialOnly.trans {s t u : State} (h : SerialOnly s t) (k : SerialOnly t u) : SerialOnly s u := by
  cases s; cases t; cases u; simp_all [SerialOnly]

theorem ReportOnly.refl (s : State) : ReportOnly s s := rfl

theorem GapOnly.refl (s : State) : GapOnly s s := rfl

theorem GapOnly.trans {s t u : State} (h : GapOnly s t) (k : GapOnly t u) : GapOnly s u := by
  cases s; cases t; cases u; simp_all [GapOnly]

theorem SerialOnly.gapOnly {s t : State} (h : SerialOnly s t) : GapOnly s t := by
  cases s; cases t; simp_all [SerialOnly, GapOnly]

theorem ReportOnly.gapOnly {s t : State} (h : ReportOnly s t) : GapOnly s t := by
  cases s; cases t; simp_all [ReportOnly, GapOnly]

theorem SampleOnly.refl (s : State) : SampleOnly s s := rfl

theorem SampleOnly.trans {s t u : State} (h : SampleOnly s t) (k : SampleOnly t u) : SampleOnly s u := by
  cases s; cases t; cases u; simp_all [SampleOnly]

theorem GapOnly.sampleOnly {s t : State} (h : GapOnly s t) : SampleOnly s t := by
  cases s; cases t; simp_all [GapOnly, SampleOnly]

/-! ### The serial decoder -/

theorem setBbTrunc_only (s : State) : SerialOnly s (setBbTrunc s) := by
  unfold setBbTrunc SerialOnly; split <;> rfl

theorem setBbPerr_only (s : State) : SerialOnly s (setBbPerr s) := by
  unfold setBbPerr SerialOnly; split <;> rfl

theorem storeByte_only (v : Byte) (p : Bool) (s : State) : SerialOnly s (storeByte v p s) := by
  have h : SerialOnly s (if s.bbLen < s.cfg.byteCap then s.setBb { s.bb with bytes := s.bb.bytes ++ [v] } else setBbTrunc s) := by
    split
    · rfl
    · exact setBbTrunc_only s
  unfold storeByte
  cases p
  · simpa using h
  · simpa using h.trans (setBbPerr_only _)

theorem emitByte_only (s : State) : SerialOnly s (emitByte s).1 :=
  (storeByte_only s.ser.acc (parityError s.cfg s.ser.ones s.ser.par) s).trans rfl

theorem serBit_only (b : Level) (s : State) : SerialOnly s (serBit b s).1 := by
  unfold serBit
  split
  · cases b <;> rfl
  · rfl
  · rfl
  · unfold serStop
    split
    · rfl
    · split
      · rfl
      · exact emitByte_only s

theorem serRun_only (b : Level) (k : Nat) (s : State) : SerialOnly s (serRun b k s).1 := by
  induction k generalizing s with
  | zero => rfl
  | succ k ih =>
    have hb := serBit_only b s
    unfold serRun
    split <;> rename_i heq <;> rw [heq] at hb
    · exact hb
    · exact hb.trans (ih _)
    · exact hb.trans (ih _)

theorem serEntries_only (es : List ClassifiedBit) (s : State) : SerialOnly s (serEntries es s).1 := by
  induction es generalizing s with
  | nil => rfl
  | cons e es ih =>
    have hr := serRun_only (levelOf e.val) e.len.toNat s
    unfold serEntries
    split <;> rename_i heq <;> rw [heq] at hr
    · exact hr.trans rfl
    · exact hr.trans (ih _)

theorem serFinish_only (s : State) : SerialOnly s (serFinish s) := by
  unfold serFinish; split <;> rfl

theorem serFrame_only (ds : Nat) (x : Index) (s : State) : SerialOnly s (serFrame ds x s).1 := by
  have hs : SerialOnly s (serStart x s) := rfl
  have he := serEntries_only (s.fb.drop ds) (serStart x s)
  unfold serFrame
  split <;> rename_i heq <;> rw [heq] at he
  · exact hs.trans he
  · exact (hs.trans he).trans (serFinish_only _)

/-! ### The field extractor and the synchronizer -/

theorem appDecode_only (a : Bool) (s : State) : ReportOnly s (appDecode a s).1 := by
  unfold appDecode reportFrame
  repeat' split
  all_goals rfl

theorem frameAttempt_only (k : Nat) (s : State) : GapOnly s (frameAttempt k s).1 :=
  (serFrame_only _ _ s).gapOnly.trans (appDecode_only _ _).gapOnly

theorem gapAttempt_only (s : State) : GapOnly s (gapAttempt s).1 := by
  unfold gapAttempt
  split
  · exact frameAttempt_only _ s
  · split <;> rfl

theorem syncGap_only (s : State) : GapOnly s (syncGap s).1 :=
  (gapAttempt_only s).trans rfl

theorem syncAppend_only (e : ClassifiedBit) (s : State) : GapOnly s (syncAppend e s) := by
  unfold syncAppend setFbTrunc
  split
  · rfl
  · split <;> rfl

/-! ### The demodulator, the classifier and the whole step -/

theorem demodSample_only (i q : Byte) (s : State) : SampleOnly s (demodSample i q s).1 := rfl

theorem runSymbol_only (r : SymbolRec) (s : State) : SampleOnly s (runSymbol r s).1 := by
  unfold runSymbol; split <;> rfl

theorem clsRun_only (r : Run) (s : State) : ReportOnly s (clsRun r s).1 := by
  unfold clsRun
  repeat' split
  all_goals rfl

theorem afterClassify_only (c : ClsResult) (s : State) : GapOnly s (afterClassify c s) := by
  cases c
  · exact syncAppend_only _ s
  · exact syncGap_only s
  · rfl

theorem afterRun_only (r : Option Run) (s : State) : GapOnly s (afterRun r s) := by
  cases r
  · rfl
  · exact (clsRun_only _ s).gapOnly.trans (afterClassify_only _ _)

theorem pipelineStep_only (i q : Byte) (s : State) : SampleOnly s (pipelineStep i q s) :=
  ((demodSample_only i q s).trans (runSymbol_only _ _)).trans (afterRun_only _ _).sampleOnly

end Sys2Proof.Machine
end

