-- ==== Sys2Proof/Laws/Match.lean ====
section
/-! SUPPORT. What the preamble comparison at one offset says (spec/44_frame_synchronizer.md R193). -/

namespace Sys2Proof.Machine

theorem patternAt_iff {pat : List PatElem} {fb : List ClassifiedBit} {k : Nat} (hk : k + pat.length ≤ fb.length) :
    patternAt pat fb k = true ↔
      ∀ j, j < pat.length → ∃ e p, fb[k + j]? = some e ∧ pat[j]? = some p ∧ e.val = p.val ∧ e.len = p.len := by
  unfold patternAt
  rw [beq_iff_eq]
  constructor
  · intro h j hj
    have h1 : fb[k + j]? = some fb[k + j] := List.getElem?_eq_getElem (by omega)
    have h2 : pat[j]? = some pat[j] := List.getElem?_eq_getElem (by omega)
    have := congrArg (fun l => l[j]?) h
    simp only [List.getElem?_map, List.getElem?_take, hj, if_true, List.getElem?_drop, h1, h2, Option.map_some,
      Option.some.injEq] at this
    refine ⟨_, _, h1, h2, ?_⟩
    rw [← this]
    exact ⟨rfl, rfl⟩
  · intro h
    apply List.ext_getElem?
    intro j
    by_cases hj : j < pat.length
    · obtain ⟨e, p, h1, h2, h3, h4⟩ := h j hj
      simp only [List.getElem?_map, List.getElem?_take, hj, if_true, List.getElem?_drop, h1, h2, Option.map_some,
        ClassifiedBit.key, h3, h4]
    · rw [List.getElem?_eq_none (by simp; omega), List.getElem?_eq_none (by omega)]

end Sys2Proof.Machine
end

