-- ==== Sys2Proof/Laws/Memory.lean ====
section
/-! SUPPORT. The memory operations: read after write, and the form every memory keeps (spec/20_memory.md R60, R67, R68). -/

namespace Sys2Proof.Machine

theorem Memory.wf_iff {s : State} : Memory.wf s = true ↔
    1 ≤ s.pw.size ∧ s.pw.size ≤ 65535 ∧ s.pw.pos < s.pw.size ∧
    1 ≤ s.fw.size ∧ s.fw.size ≤ 65535 ∧ s.fw.pos < s.fw.size ∧
    s.fb.length ≤ s.cfg.fbCap ∧ s.bb.bytes.length ≤ s.cfg.byteCap := by
  simp [Memory.wf]

@[simp] theorem Window.size_update (w : Window) (v : Int) : (w.update v).size = w.size := by
  simp [Window.update, Window.size]

@[simp] theorem Window.size_init (n : Nat) (v : Int) : (Window.init n v).size = n := by
  simp [Window.init, Window.size]

theorem Window.pos_update {w : Window} (v : Int) (h : 1 ≤ w.size) : (w.update v).pos < (w.update v).size := by
  rw [Window.size_update]
  exact Nat.mod_lt _ h

/-- The entry an update writes reads back as the value written (R67). -/
theorem Window.buf_update_pos {w : Window} (v : Int) (h : w.pos < w.size) : (w.update v).buf[w.pos]? = some v := by
  have h' : w.pos < w.buf.length := h
  simp [Window.update, h']

/-- An update leaves every other entry alone (R67). -/
theorem Window.buf_update_ne {w : Window} {k : Nat} (v : Int) (h : k ≠ w.pos) : (w.update v).buf[k]? = w.buf[k]? := by
  simp [Window.update, List.getElem?_set_ne h.symm]

/-- A byte appended to `BB` reads back at the old `bb_len`. -/
theorem readBb_append (b : ByteBuffer) (v : Byte) : readBb { b with bytes := b.bytes ++ [v] } b.bytes.length = v := by
  simp [readBb]

/-- Appending to `BB` leaves every earlier entry alone. -/
theorem readBb_append_lt {b : ByteBuffer} {k : Nat} (v : Byte) (h : k < b.bytes.length) :
    readBb { b with bytes := b.bytes ++ [v] } k = readBb b k := by
  simp only [readBb, List.getD_eq_getElem?_getD, List.getElem?_append_left h]

theorem swInit_wf {s : State} {n : Nat} (sel : WindowSel) (v : Int) (h : Memory.wf s = true) (h1 : 1 ≤ n)
    (h2 : n ≤ 65535) : Memory.wf (swInit sel n v s) = true := by
  rw [Memory.wf_iff] at h ⊢
  have : (Window.init n v).pos = 0 := rfl
  cases sel <;> simp [swInit, this] <;> omega

theorem swUpdate_wf {s : State} (sel : WindowSel) (v : Int) (h : Memory.wf s = true) :
    Memory.wf (swUpdate sel v s) = true := by
  rw [Memory.wf_iff] at h ⊢
  cases sel
  · have := Window.pos_update (w := s.pw) v h.1
    simp_all [swUpdate]
  · have := Window.pos_update (w := s.fw) v h.2.2.2.1
    simp_all [swUpdate]

theorem syncAppend_wf {s : State} (e : ClassifiedBit) (h : Memory.wf s = true) : Memory.wf (syncAppend e s) = true := by
  rw [Memory.wf_iff] at h ⊢
  unfold syncAppend setFbTrunc State.fbLen
  split
  · simp; omega
  · split <;> simpa using h

theorem clearFb_wf {s : State} (h : Memory.wf s = true) : Memory.wf (s.setFb [] false) = true := by
  rw [Memory.wf_iff] at h ⊢
  simp; omega

theorem serStart_wf {s : State} (x : Index) (h : Memory.wf s = true) : Memory.wf (serStart x s) = true := by
  rw [Memory.wf_iff] at h ⊢
  simp [serStart, ByteBuffer.empty]; omega

theorem storeByte_wf {s : State} (v : Byte) (p : Bool) (h : Memory.wf s = true) :
    Memory.wf (storeByte v p s) = true := by
  rw [Memory.wf_iff] at h ⊢
  unfold storeByte setBbPerr setBbTrunc State.bbLen
  by_cases hlt : s.bb.bytes.length < s.cfg.byteCap <;> cases p <;> simp only [hlt, if_true, if_false, Bool.false_eq_true]
  all_goals repeat' split
  all_goals simp
  all_goals omega

/-- The memories right after reset have their form, under every legal configuration (R55). -/
theorem resetWith_wf {c : Config} (h : c.legal = true) : Memory.wf (State.resetWith c) = true := by
  have hw := (Config.legal_windows h).1
  rw [Memory.wf_iff]
  have h1 : (Window.init c.pwrWinN c.pwrWinInit).pos = 0 := rfl
  have h2 : (Window.init c.phWinN c.phWinInit).pos = 0 := rfl
  simp [State.resetWith, ByteBuffer.empty, h1, h2]
  omega

theorem reset_wf : Memory.wf State.reset = true := resetWith_wf (by decide)

end Sys2Proof.Machine
end

