-- ==== Sys2Proof/Laws/Numbers.lean ====
section
/-! SUPPORT. The numbers of the first stages as plain arithmetic: the magnitude table and the classifier's shifts. -/

namespace Sys2Proof.Machine

theorem magOfSquared_le (m2 : Int) : magOfSquared m2 ≤ 5 :=
  (List.length_filter_le _ _).trans (by simp [magThresholds])

theorem extract_high (i q : Byte) : (i ++ q).extractLsb' 8 8 = i := by
  apply BitVec.eq_of_getLsbD_eq
  intro k hk
  rw [BitVec.getLsbD_extractLsb', BitVec.getLsbD_append]
  simp [hk]

theorem extract_low (i q : Byte) : (i ++ q).extractLsb' 0 8 = q := by
  apply BitVec.eq_of_getLsbD_eq
  intro k hk
  rw [BitVec.getLsbD_extractLsb', BitVec.getLsbD_append]
  simp [hk]

/-- The entry at `{i, q}` is the magnitude of that point. -/
theorem lut_append (i q : Byte) : lut (i ++ q) = magOfSquared (magSquared i q) := by
  rw [lut, extract_high, extract_low]

theorem clsOne_eq (k : Nat) : clsOne k = 2 ^ k := by
  simp [clsOne, Nat.shiftLeft_eq]

theorem evaluation_eq (c : Config) (len : Nat) :
    evaluation c len = c.bitRate * (len * 2 ^ c.shift) / c.sampleRate := by
  simp [evaluation, Nat.shiftLeft_eq]

theorem bitLength_eq (c : Config) (len : Nat) :
    bitLength c len = (evaluation c len + (2 ^ c.shift / 2 - 1)) / 2 ^ c.shift := by
  simp [bitLength, Nat.shiftRight_eq_div_pow, clsHalf, clsOne_eq]

theorem remainder_eq (c : Config) (len : Nat) :
    remainder c len =
      if 2 ^ c.shift / 2 - 1 < evaluation c len % 2 ^ c.shift then 2 ^ c.shift - evaluation c len % 2 ^ c.shift
      else evaluation c len % 2 ^ c.shift := by
  have : evaluation c len &&& (2 ^ c.shift - 1) = evaluation c len % 2 ^ c.shift := Nat.and_two_pow_sub_one_eq_mod _ _
  simp only [remainder, clsHalf, clsMask, clsOne_eq, this]

end Sys2Proof.Machine
end

