-- ==== Sys2Proof/Laws/Outer.lean ====
section
/-! SUPPORT. No stage reads what lies outside the pipeline: each operation commutes with a change of the streams the host
holds, of the events already delivered, and of the last result (spec/20_memory.md R62, spec/30_encoding.md R113). -/

namespace Sys2Proof.Machine

/-- What lies outside the pipeline. -/
structure Outer where
  inBytes : List Byte
  opBits : List Bool
  frames : List FrameEvent
  diags : List DiagEvent
  aux : List AuxSample
  result : OpResult

/-- `s` with another outside; the events of `s` are appended to those of `o`. -/
def State.within (s : State) (o : Outer) : State :=
  { s with
    inBytes := o.inBytes, opBits := o.opBits, result := o.result
    frames := o.frames ++ s.frames, diags := o.diags ++ s.diags, aux := o.aux ++ s.aux }

theorem raise_within (o : Outer) (s : State) (c : DiagCode) (x : Index) :
    (s.within o).raise c x = (s.raise c x).within o := by
  simp [State.raise, State.within]

theorem emit_within (o : Outer) (s : State) (e : FrameEvent) : (s.within o).emit e = (s.emit e).within o := by
  simp [State.emit, State.within]

theorem setBbTrunc_within (o : Outer) (s : State) : setBbTrunc (s.within o) = (setBbTrunc s).within o := by
  by_cases h : s.bb.trunc <;> simp [setBbTrunc, h, State.within, State.setBb, State.raise]

theorem setBbPerr_within (o : Outer) (s : State) : setBbPerr (s.within o) = (setBbPerr s).within o := by
  by_cases h : s.bb.perr <;> simp [setBbPerr, h, State.within, State.setBb, State.raise]

theorem storeByte_within (o : Outer) (v : Byte) (p : Bool) (s : State) :
    storeByte v p (s.within o) = (storeByte v p s).within o := by
  by_cases h : s.bbLen < s.cfg.byteCap
  · have h' : (s.within o).bbLen < (s.within o).cfg.byteCap := h
    cases p
    · simp only [storeByte, if_pos h, if_pos h', Bool.false_eq_true, if_false]; rfl
    · simp only [storeByte, if_pos h, if_pos h', if_true, ← setBbPerr_within]; rfl
  · have h' : ¬ (s.within o).bbLen < (s.within o).cfg.byteCap := h
    cases p
    · simp only [storeByte, if_neg h, if_neg h', Bool.false_eq_true, if_false, setBbTrunc_within]
    · simp only [storeByte, if_neg h, if_neg h', if_true, setBbTrunc_within, setBbPerr_within]

theorem emitByte_within (o : Outer) (s : State) :
    emitByte (s.within o) = ((emitByte s).1.within o, (emitByte s).2) := by
  have h := storeByte_within o s.ser.acc (parityError s.cfg s.ser.ones s.ser.par) s
  have e : emitByte (s.within o) =
      ((storeByte s.ser.acc (parityError s.cfg s.ser.ones s.ser.par) (s.within o)).setSer { s.ser with state := .wait },
        .byte s.ser.acc (parityError s.cfg s.ser.ones s.ser.par)) := rfl
  rw [e, h]
  rfl

theorem serBit_within (o : Outer) (b : Level) (s : State) :
    serBit b (s.within o) = ((serBit b s).1.within o, (serBit b s).2) := by
  have hs : (s.within o).ser = s.ser := rfl
  unfold serBit
  rw [hs]
  split
  · cases b <;> rfl
  · rfl
  · rfl
  · next j _ =>
    cases b with
    | low => rfl
    | high =>
      unfold serStop
      have hc : (s.within o).cfg = s.cfg := rfl
      simp only [hc]
      split
      · rfl
      · exact emitByte_within o s

theorem serRun_within (o : Outer) (b : Level) (k : Nat) (s : State) :
    serRun b k (s.within o) = ((serRun b k s).1.within o, (serRun b k s).2) := by
  induction k generalizing s with
  | zero => rfl
  | succ k ih =>
    simp only [serRun, serBit_within]
    rcases serBit b s with ⟨s', r⟩
    cases r
    · exact ih s'
    · exact ih s'
    · rfl

theorem serEntries_within (o : Outer) (es : List ClassifiedBit) (s : State) :
    serEntries es (s.within o) = ((serEntries es s).1.within o, (serEntries es s).2) := by
  induction es generalizing s with
  | nil => rfl
  | cons e es ih =>
    simp only [serEntries, serRun_within]
    rcases serRun (levelOf e.val) e.len.toNat s with ⟨s', r⟩
    cases r
    · exact ih s'
    · simp [raise_within]

theorem serFinish_within (o : Outer) (s : State) : serFinish (s.within o) = (serFinish s).within o := by
  by_cases h : s.ser.state = .wait <;> simp [serFinish, h, State.within, State.raise]

theorem serFrame_within (o : Outer) (ds : Nat) (x : Index) (s : State) :
    serFrame ds x (s.within o) = ((serFrame ds x s).1.within o, (serFrame ds x s).2) := by
  have h := serEntries_within o (s.fb.drop ds) (serStart x s)
  have hs : serStart x (s.within o) = (serStart x s).within o := rfl
  have hf : (s.within o).fb = s.fb := rfl
  simp only [serFrame, hs, hf, h]
  rcases serEntries (s.fb.drop ds) (serStart x s) with ⟨s', r⟩
  cases r
  · simp [serFinish_within]
  · rfl

theorem appDecode_within (o : Outer) (a : Bool) (s : State) :
    appDecode a (s.within o) = ((appDecode a s).1.within o, (appDecode a s).2) := by
  have hb : (s.within o).bb = s.bb := rfl
  have hl : (s.within o).bbLen = s.bbLen := rfl
  have hc : (s.within o).cfg = s.cfg := rfl
  have he : frameEvent (s.within o) = frameEvent s := rfl
  unfold appDecode reportFrame
  simp only [hb, hl, hc, he, raise_within, emit_within]
  repeat' split
  all_goals rfl

theorem frameAttempt_within (o : Outer) (k : Nat) (s : State) :
    frameAttempt k (s.within o) = ((frameAttempt k s).1.within o, (frameAttempt k s).2) := by
  have h : frameAttempt k (s.within o) =
      appDecode (isFerr (serFrame (k + s.cfg.syncPattern.length) (startAt s.fb k) (s.within o)).2)
        (serFrame (k + s.cfg.syncPattern.length) (startAt s.fb k) (s.within o)).1 := rfl
  rw [h, serFrame_within, appDecode_within]
  rfl

theorem gapAttempt_within (o : Outer) (s : State) :
    gapAttempt (s.within o) = ((gapAttempt s).1.within o, (gapAttempt s).2) := by
  have hf : (s.within o).fb = s.fb := rfl
  have hl : (s.within o).fbLen = s.fbLen := rfl
  have hc : (s.within o).cfg = s.cfg := rfl
  unfold gapAttempt
  simp only [hf, hl, hc]
  split
  · exact frameAttempt_within o _ s
  · split
    · simp [raise_within]
    · rfl

theorem syncGap_within (o : Outer) (s : State) :
    syncGap (s.within o) = ((syncGap s).1.within o, (syncGap s).2) := by
  simp only [syncGap, gapAttempt_within]
  rfl

theorem syncAppend_within (o : Outer) (e : ClassifiedBit) (s : State) :
    syncAppend e (s.within o) = (syncAppend e s).within o := by
  have hf : (s.within o).fb = s.fb := rfl
  have hl : (s.within o).fbLen = s.fbLen := rfl
  have ht : (s.within o).fbTrunc = s.fbTrunc := rfl
  have hc : (s.within o).cfg = s.cfg := rfl
  unfold syncAppend setFbTrunc
  simp only [hf, hl, hc, ht, raise_within]
  split
  · rfl
  · split <;> rfl

theorem demodSample_within (o : Outer) (i q : Byte) (s : State) :
    demodSample i q (s.within o) = ((demodSample i q s).1.within o, (demodSample i q s).2) := by
  simp only [demodSample, demodStore, demodWindows, swUpdate, State.within, State.setWindow, State.deliverAux,
    State.setPrev, State.setN, State.window, List.append_assoc]
  rfl

theorem runSymbol_within (o : Outer) (r : SymbolRec) (s : State) :
    runSymbol r (s.within o) = ((runSymbol r s).1.within o, (runSymbol r s).2) := by
  have hr : (s.within o).run = s.run := rfl
  unfold runSymbol
  simp only [hr]
  split <;> rfl

theorem clsRun_within (o : Outer) (r : Run) (s : State) :
    clsRun r (s.within o) = ((clsRun r s).1.within o, (clsRun r s).2) := by
  have hc : (s.within o).cfg = s.cfg := rfl
  unfold clsRun
  simp only [hc, raise_within]
  split
  · rfl
  · split <;> rfl

theorem afterClassify_within (o : Outer) (c : ClsResult) (s : State) :
    afterClassify c (s.within o) = (afterClassify c s).within o := by
  cases c
  · exact syncAppend_within o _ s
  · simp [afterClassify, syncGap_within]
  · rfl

theorem afterRun_within (o : Outer) (r : Option Run) (s : State) :
    afterRun r (s.within o) = (afterRun r s).within o := by
  cases r
  · rfl
  · simp [afterRun, clsRun_within, afterClassify_within]

theorem pipelineStep_within (o : Outer) (i q : Byte) (s : State) :
    pipelineStep i q (s.within o) = (pipelineStep i q s).within o := by
  simp [pipelineStep, demodSample_within, runSymbol_within, afterRun_within]

end Sys2Proof.Machine
end

