-- ==== Sys2Proof/Laws/PerInstr.lean ====
section
/-! SUPPORT. Statements about every instruction, one lemma per constructor. -/

namespace Sys2Proof.Laws.EncodeWidth

/-- The word of an operation has the width its OPID fixes (spec/30_encoding.md R91, R92). -/
def Statement (i : Instr) : Prop := wordWidth i.opid.toNat = some (encode i).length

theorem reset : Statement .reset := by simp [Statement, encode, operandBits, Instr.opid, wordWidth]
theorem inByte (b : Byte) : Statement (.inByte b) := by simp [Statement, encode, operandBits, Instr.opid, wordWidth]
theorem demodSample (i q : Byte) : Statement (.demodSample i q) := by
  simp [Statement, encode, operandBits, Instr.opid, wordWidth]
theorem magLookup (i q : Byte) : Statement (.magLookup i q) := by
  simp [Statement, encode, operandBits, Instr.opid, wordWidth]
theorem swInit (w : WindowSel) (n : BitVec 16) (v : BitVec 18) : Statement (.swInit w n v) := by
  simp [Statement, encode, operandBits, Instr.opid, wordWidth]
theorem swUpdate (w : WindowSel) (v : BitVec 18) : Statement (.swUpdate w v) := by
  simp [Statement, encode, operandBits, Instr.opid, wordWidth]
theorem runSymbol (s : Symbol) (x : Index) : Statement (.runSymbol s x) := by
  simp [Statement, encode, operandBits, Instr.opid, wordWidth]
theorem clsRun (s : Symbol) (n : Length) (x : Index) : Statement (.clsRun s n x) := by
  simp [Statement, encode, operandBits, Instr.opid, wordWidth]
theorem syncAppend (s : Symbol) (n : Length) (x : Index) : Statement (.syncAppend s n x) := by
  simp [Statement, encode, operandBits, Instr.opid, wordWidth]
theorem syncGap : Statement .syncGap := by simp [Statement, encode, operandBits, Instr.opid, wordWidth]
theorem serFrame (d : BitVec 16) (x : Index) : Statement (.serFrame d x) := by
  simp [Statement, encode, operandBits, Instr.opid, wordWidth]
theorem serBit (b : Level) : Statement (.serBit b) := by simp [Statement, encode, operandBits, Instr.opid, wordWidth]
theorem appDecode (a : Bool) : Statement (.appDecode a) := by
  simp [Statement, encode, operandBits, Instr.opid, wordWidth]
theorem appDigit (b : Byte) : Statement (.appDigit b) := by
  simp [Statement, encode, operandBits, Instr.opid, wordWidth]

end Sys2Proof.Laws.EncodeWidth
end

