-- ==== Sys2Proof/Machine/Pseudo.lean ====
section
/-! DEFINITION. The textual notation of the operations (spec/30_encoding.md R116) and the pseudo-operations with their
expansions (R117). No step uses them: a program is the bytes of its IN.BYTE operations. -/

namespace Sys2Proof.Machine

/-- A symbol or a bit value as text (R116). -/
def symbolText : Symbol → String
  | .neg => "-1"
  | .zero => "0"
  | .pos => "+1"

/-- A bit event as text (R116). -/
def levelText : Level → String
  | .low => "-1"
  | .high => "+1"

/-- A window select as text (R116). -/
def windowText : WindowSel → String
  | .power => "P"
  | .phase => "F"

/-- A byte, size, length or index as text, in decimal (R116). -/
def numText {n : Nat} (x : BitVec n) : String := toString x.toNat

/-- An operation as text: the mnemonic, then the operands in field order, separated by commas (R116). -/
def instrText : Instr → String
  | .reset => "RESET"
  | .inByte b => "IN.BYTE " ++ numText b
  | .demodSample i q => "DEMOD.SAMPLE " ++ numText i ++ ", " ++ numText q
  | .magLookup i q => "MAG.LOOKUP " ++ numText i ++ ", " ++ numText q
  | .swInit w n v => "SW.INIT " ++ windowText w ++ ", " ++ numText n ++ ", " ++ toString v.toInt
  | .swUpdate w v => "SW.UPDATE " ++ windowText w ++ ", " ++ toString v.toInt
  | .runSymbol s x => "RUN.SYMBOL " ++ symbolText s ++ ", " ++ numText x
  | .clsRun s n x => "CLS.RUN " ++ symbolText s ++ ", " ++ numText n ++ ", " ++ numText x
  | .syncAppend s n x => "SYNC.APPEND " ++ symbolText s ++ ", " ++ numText n ++ ", " ++ numText x
  | .syncGap => "SYNC.GAP"
  | .serFrame d x => "SER.FRAME " ++ numText d ++ ", " ++ numText x
  | .serBit b => "SER.BIT " ++ levelText b
  | .appDecode a => "APP.DECODE " ++ (if a then "1" else "0")
  | .appDigit b => "APP.DIGIT " ++ numText b

/-- `IQ i, q` (R117). -/
def pseudoIq (i q : Byte) : List Instr := [.inByte i, .inByte q]

/-- `IQ.REP i, q, k` (R117). -/
def pseudoIqRep (i q : Byte) (k : Nat) : List Instr := (List.replicate k (pseudoIq i q)).flatten

/-- `IDLE k`: zero amplitude (R117). -/
def pseudoIdle (k : Nat) : List Instr := pseudoIqRep 128 128 k

/-- `BYTES h0 h1 ...` (R117). -/
def pseudoBytes (bytes : List Byte) : List Instr := bytes.map .inByte

/-- `SYMS v, k` from the running index `start` (R117). -/
def pseudoSyms (v : Symbol) (k : Nat) (start : Index) : List Instr :=
  (List.range k).map fun j => .runSymbol v (start + BitVec.ofNat 64 j)

/-- `BITS v, k` (R117). -/
def pseudoBits (v : Level) (k : Nat) : List Instr := List.replicate k (.serBit v)

end Sys2Proof.Machine
end

