-- ==== Sys2Proof/Tests/Slice0.lean ====
section
/-! SUPPORT. The model's own tests. Expected results are those of spec/95_test_vectors.md (cited as V-LUT, V-SW, ...) and
of the worked examples in the rules; a state is a reset state with the few fields that a vector names. -/

namespace Sys2Proof.Machine

-- The many kernel evaluations below run one after another: each waiting thread would claim a stack of its own.
set_option Elab.async false

/-! ### Helpers -/

/-- The next state, if there is one. -/
def after : Host.Outcome State Fault Refusal → Option State
  | .next t => some t
  | .fault _ => none
  | .refused _ => none

/-- One field of the next state. -/
def field {α : Type} (f : State → α) (o : Host.Outcome State Fault Refusal) : Option α := (after o).map f

/-- The reason of a refusal. -/
def refusal : Host.Outcome State Fault Refusal → Option Refusal
  | .next _ => none
  | .fault _ => none
  | .refused r => some r

/-- Base configuration `T0` at 8 and 2 (V-CLS table B, program P1) with windows of 2. -/
def cfgP1 : Config := { Config.atReset with sampleRate := 8, bitRate := 2, pwrWinN := 2, phWinN := 2, fieldMap := [] }

/-- The reference rates with `ACCEPT_THRESH` = 2 (V-CLS 10 to 16). -/
def cfgRef : Config := { Config.atReset with sampleRate := 2048000, bitRate := 39400, acceptThresh := 2 }

/-- 8E1 with the parity check on (V-SER 12, 13). -/
def cfgEven : Config := { Config.atReset with parityMode := .even, parityCheckEn := true }

/-- Frame buffer entries from (val, len) pairs, entry j with `start` = 1000 + 10·j (V-SER). -/
def suffix (l : List (Symbol × Length)) : List ClassifiedBit :=
  l.zipIdx.map fun p => ⟨p.1.1, p.1.2, BitVec.ofNat 64 (1000 + 10 * p.2)⟩

/-- The state of the V-APP vectors: `bb` with `bb_start` = 5000. -/
def withBytes (c : Config) (l : List Byte) : State := { State.resetWith c with bb := ⟨l, false, false, 5000⟩ }

/-! ### Well-formedness: each check refuses its ill-formed term -/

theorem test_wf_ok : (Instr.swInit .phase 65535 (-32640)).wellFormed = true := by decide

theorem test_wf_windowSizeZero : (Instr.swInit .power 0 3).defect = some .windowSizeZero := by decide

theorem test_wf_windowValueRange_init : (Instr.swInit .power 1 6).defect = some .windowValueRange := by decide

theorem test_wf_windowValueRange_update : (Instr.swUpdate .phase (-32641)).defect = some .windowValueRange := by decide

theorem test_wf_notClassifiedBit_val : (Instr.syncAppend .zero 1 0).defect = some .notClassifiedBit := by decide

theorem test_wf_notClassifiedBit_len : (Instr.syncAppend .pos 0 0).defect = some .notClassifiedBit := by decide

/-! ### Decoding: the words of V-ENC, and bit by bit from R92 -/

theorem test_decode_reset : decode [false, false, false, false] = .ok (.reset, []) := rfl

theorem test_decode_inByte :
    decode [false, false, false, true, true, true, true, false, false, true, false, false] = .ok (.inByte 0xE4, []) := rfl

theorem test_decode_demodSample : decode (bitsOfNat 20 0x2E480) = .ok (.demodSample 228 128, []) := rfl

theorem test_decode_magLookup : decode (bitsOfNat 20 0x3E480) = .ok (.magLookup 228 128, []) := rfl

theorem test_decode_swInit : decode (bitsOfNat 39 0x2000100000) = .ok (.swInit .power 4 0, []) := rfl

theorem test_decode_swUpdate : decode (bitsOfNat 23 0x2F8080) = .ok (.swUpdate .phase (-32640), []) := rfl

theorem test_decode_runSymbol : decode (bitsOfNat 70 0x1B000000000000041C) = .ok (.runSymbol .neg 1052, []) := rfl

theorem test_decode_clsRun : decode (bitsOfNat 102 0x1C000000040000000000000093) = .ok (.clsRun .zero 4 147, []) := rfl

theorem test_decode_syncAppend :
    decode (bitsOfNat 102 0x21000000020000000000000410) = .ok (.syncAppend .pos 2 1040, []) := rfl

theorem test_decode_syncGap : decode [true, false, false, true] = .ok (.syncGap, []) := rfl

theorem test_decode_serFrame : decode (bitsOfNat 84 0xA00020000000000000003) = .ok (.serFrame 2 3, []) := rfl

theorem test_decode_serBit : decode [true, false, true, true, false] = .ok (.serBit .low, []) := rfl

theorem test_decode_appDecode : decode [true, true, false, false, true] = .ok (.appDecode true, []) := rfl

theorem test_decode_appDigit : decode (bitsOfNat 12 0xD33) = .ok (.appDigit 0x33, []) := rfl

/-- The invalid words V-ENC names. -/
theorem test_decode_invalid :
    decode (bitsOfNat 4 0xE) = .error .reservedOpid ∧ decode (bitsOfNat 4 0xF) = .error .reservedOpid ∧
    decode (bitsOfNat 70 0x1A0000000000000000) = .error .reservedSymbol ∧
    decode (bitsOfNat 102 0x20000000010000000000000000) = .error (.operand .notClassifiedBit) ∧
    decode (bitsOfNat 39 0x2000000000) = .error (.operand .windowSizeZero) := ⟨rfl, rfl, rfl, rfl, rfl⟩

/-- A word cut short. -/
theorem test_decode_truncated : decode (bitsOfNat 4 0x1) = .error .truncated := rfl

/-- Two words in a row are cut at their widths (R91). -/
theorem test_decode_two :
    decode (bitsOfNat 12 0x1E4 ++ bitsOfNat 4 0x9) = .ok (.inByte 0xE4, bitsOfNat 4 0x9) := rfl

/-- Each row's width is found from its number: every opcode-table row, at a word of V-ENC. -/
theorem test_tableWord_rows :
    decodeTableWord 8 0x0 = some .reset ∧ decodeTableWord 16 0x100 = some (.inByte 0) ∧
    decodeTableWord 24 0x20000 = some (.demodSample 0 0) ∧ decodeTableWord 24 0x30000 = some (.magLookup 0 0) ∧
    decodeTableWord 40 0x2000100000 = some (.swInit .power 4 0) ∧
    decodeTableWord 24 0x280000 = some (.swUpdate .power 0) ∧
    decodeTableWord 72 0x180000000000000000 = some (.runSymbol .zero 0) ∧
    decodeTableWord 104 0x1c000000000000000000000000 = some (.clsRun .zero 0 0) ∧
    decodeTableWord 104 0x23000000010000000000000003 = some (.syncAppend .neg 1 3) ∧
    decodeTableWord 8 0x9 = some .syncGap ∧ decodeTableWord 88 0xa00000000000000000000 = some (.serFrame 0 0) ∧
    decodeTableWord 8 0x16 = some (.serBit .low) ∧ decodeTableWord 8 0x18 = some (.appDecode false) ∧
    decodeTableWord 16 0xd00 = some (.appDigit 0) :=
  ⟨rfl, rfl, rfl, rfl, rfl, rfl, rfl, rfl, rfl, rfl, rfl, rfl, rfl, rfl⟩

/-! ### One step of each operation -/

/-- V-RST: configuration of P1, a state in the middle of a run. -/
theorem test_reset_clears :
    field (fun t => (t.diPhase, t.prevQ, t.n, t.run, t.pw))
      (exec .reset { State.resetWith cfgP1 with
        diPhase := true, diHold := 0x1C, prevI := 128, prevQ := 228, n := 2, run := ⟨.pos, 1, 1⟩
        pw := ⟨[4, 4], 0, 8, 4, 4⟩, fw := ⟨[0, 10000], 0, 10000, 0, 5000⟩ }) =
    some (false, 128, 0, ⟨.zero, 0, 0⟩, ⟨[0, 0], 0, 0, 0, 0⟩) := by decide +kernel

/-- R11: `PWR_WIN_N` = 0 is illegal. -/
theorem test_reset_illegal :
    refusal (exec .reset { State.reset with cfgIn := { Config.atReset with pwrWinN := 0 } }) = some .illegalConfig := by
  decide +kernel

/-- V-DEM 10: the first byte is held. -/
theorem test_inByte_holds :
    field (fun t => (t.diPhase, t.diHold, t.n)) (exec (.inByte 0xE4) State.reset) = some (true, 0xE4, 0) := by
  decide +kernel

/-- V-DEM 10: the second byte runs the sample (228, 128). -/
theorem test_inByte_pairs :
    field (fun t => (t.diPhase, t.prevI, t.prevQ, t.n, t.run))
      (exec (.inByte 0x80) { State.reset with diPhase := true, diHold := 0xE4 }) =
    some (false, 228, 128, 1, ⟨.zero, 1, 0⟩) := by decide +kernel

/-- V-DEM 2, third sample: the least cross product. -/
theorem test_demodSample_extreme :
    field (fun t => (t.fw, t.result)) (exec (.demodSample 0 255)
      { State.reset with prevI := 0, prevQ := 0, n := 2, fw := ⟨[32640], 0, 32640, 0, 32640⟩ }) =
    some (⟨[-32640], 0, -32640, 32640, -32640⟩, .symbol ⟨.neg, 2⟩) := by decide +kernel

/-- V-DEM 8, third sample: the fallback to the previous sum. -/
theorem test_demodSample_fallback :
    field (fun t => (t.fw, t.result)) (exec (.demodSample 128 228)
      { State.reset with prevI := 128, prevQ := 228, n := 2, fw := ⟨[10000], 0, 10000, 0, 10000⟩ }) =
    some (⟨[0], 0, 0, 10000, 0⟩, .symbol ⟨.pos, 2⟩) := by decide +kernel

/-- V-LUT 4 and 5: either side of the threshold 8. -/
theorem test_magLookup_threshold :
    field State.result (exec (.magLookup 130 129) State.reset) = some (.magnitude 0) ∧
    field State.result (exec (.magLookup 130 130) State.reset) = some (.magnitude 1) := by decide +kernel

/-- V-LUT 18 and 19. -/
theorem test_magLookup_corner :
    field State.result (exec (.magLookup 0 255) State.reset) = some (.magnitude 5) ∧
    field State.result (exec (.magLookup 0 0) State.reset) = some (.magnitude 5) := by decide +kernel

/-- V-SW 3: the initial values count. -/
theorem test_swInit_fills :
    field State.pw (exec (.swInit .power 4 2) State.reset) = some ⟨[2, 2, 2, 2], 0, 8, 8, 2⟩ := by decide +kernel

/-- V-SW 1, fifth update: the position wraps at 3 only after the last entry, and the average is negative. -/
theorem test_swUpdate_evicts :
    field State.fw (exec (.swUpdate .phase (-20)) { State.reset with fw := ⟨[4, -2, 7], 1, 9, 10, 3⟩ }) =
    some ⟨[4, -20, 7], 2, -9, 9, -3⟩ := by decide +kernel

/-- V-SW 4: the average truncates toward zero; a floor would give -4. -/
theorem test_swUpdate_truncates :
    field State.result (exec (.swUpdate .phase (-7)) { State.reset with fw := ⟨[0, 0], 0, 0, 0, 0⟩ }) =
    some (.average (-3)) := by decide +kernel

/-- V-RUN 1: the run (0,3,0) closes at index 3. -/
theorem test_runSymbol_closes :
    field (fun t => (t.run, t.result)) (exec (.runSymbol .pos 3) { State.reset with run := ⟨.zero, 3, 0⟩ }) =
    some (⟨.pos, 1, 3⟩, .run ⟨.zero, 3, 0⟩) := by decide +kernel

/-- V-RUN 3: the length saturates. -/
theorem test_runSymbol_saturates :
    field (fun t => (t.run, t.result)) (exec (.runSymbol .pos 9) { State.reset with run := ⟨.pos, 0xFFFFFFFF, 7⟩ }) =
    some (⟨.pos, 0xFFFFFFFF, 7⟩, .none) := by decide +kernel

/-- V-CLS 11 and 12: a confidence equal to the threshold is accepted, a larger one is dropped. -/
theorem test_clsRun_threshold :
    field State.result (exec (.clsRun .neg 60 10) (State.resetWith cfgRef)) =
      some (.classified (.bit ⟨.neg, 1, 10⟩)) ∧
    field (fun t => (t.result, t.diags)) (exec (.clsRun .pos 70 20) (State.resetWith cfgRef)) =
      some (.classified .drop, [⟨.lowConf, 20⟩]) := by decide +kernel

/-- V-CLS 14 and 15: length 0 with a carrier is dropped; no carrier is a gap. -/
theorem test_clsRun_zero :
    field (fun t => (t.result, t.diags)) (exec (.clsRun .neg 0 0) (State.resetWith cfgRef)) =
      some (.classified .drop, [⟨.lowConf, 0⟩]) ∧
    field (fun t => (t.result, t.diags)) (exec (.clsRun .zero 5000 30) (State.resetWith cfgRef)) =
      some (.classified .gap, []) := by decide +kernel

/-- V-SYN 6: the fifth and the sixth entry at `FB_CAP` = 4. -/
theorem test_syncAppend_full :
    field (fun t => (t.fb.length, t.fbTrunc, t.diags)) (exec (.syncAppend .neg 1 50)
      { State.resetWith { Config.atReset with fbCap := 4 } with fb := List.replicate 4 ⟨.pos, 1, 10⟩ }) =
      some (4, true, [⟨.fbTrunc, 50⟩]) ∧
    field (fun t => (t.fb.length, t.fbTrunc, t.diags)) (exec (.syncAppend .pos 1 60)
      { State.resetWith { Config.atReset with fbCap := 4 } with
        fb := List.replicate 4 ⟨.pos, 1, 10⟩, fbTrunc := true }) = some (4, true, []) := by decide +kernel

/-- V-SYN 2: lengths must be equal. -/
theorem test_syncGap_noSync :
    field (fun t => (t.fb, t.diags)) (exec .syncGap
      { State.reset with fb := [⟨.pos, 3, 100⟩, ⟨.neg, 1, 112⟩, ⟨.pos, 2, 116⟩] }) =
    some ([], [⟨.noSync, 100⟩]) := by decide +kernel

/-- V-SYN 4: the first match wins; the second occurrence is data. -/
theorem test_syncGap_first :
    field (fun t => (t.fb, t.bb, t.diags, t.frames)) (exec .syncGap
      { State.reset with fb := [⟨.neg, 1, 5⟩, ⟨.pos, 1, 9⟩, ⟨.neg, 1, 13⟩, ⟨.pos, 1, 17⟩] }) =
    some ([], ⟨[], false, false, 5⟩, [⟨.partialChar, 5⟩, ⟨.short, 5⟩], []) := by decide +kernel

/-- V-SER 8: 0xA5 with a low stop bit. -/
theorem test_serFrame_ferr :
    field (fun t => (t.result, t.bb.bytes, t.ser.state, t.diags)) (exec (.serFrame 0 777) { State.reset with
      fb := suffix [(.neg, 1), (.pos, 1), (.neg, 1), (.pos, 1), (.neg, 2), (.pos, 1), (.neg, 1), (.pos, 1), (.neg, 1)] }) =
    some (.serFrame .ferr, [], .wait, [⟨.ferr, 1080⟩]) := by decide +kernel

/-- V-SER 10: 0x8F, then the first six bit events of 0xA5. -/
theorem test_serFrame_partial :
    field (fun t => (t.result, t.bb, t.ser.state, t.ser.acc, t.diags)) (exec (.serFrame 0 777) { State.reset with
      fb := suffix [(.neg, 1), (.pos, 1), (.neg, 3), (.pos, 5), (.neg, 1), (.pos, 1), (.neg, 1), (.pos, 1), (.neg, 2)] }) =
    some (.serFrame .ok, ⟨[0x8F], false, false, 777⟩, .data 5, 0x14, [⟨.partialChar, 777⟩]) := by decide +kernel

/-- V-SER 13, last bit event: the byte with a parity error is kept. -/
theorem test_serBit_parity :
    field (fun t => (t.result, t.bb, t.ser.state, t.diags)) (exec (.serBit .high)
      { State.resetWith cfgEven with ser := ⟨.stop 0, 0xA5, 4, true⟩, bb := ⟨[], false, false, 777⟩ }) =
    some (.serBit (.byte 0xA5 true), ⟨[0xA5], false, true, 777⟩, .wait, [⟨.perr, 777⟩]) := by decide +kernel

/-- R214: with `LSB_FIRST` data bit 1 has weight 2; V-SER 7 reads 0x8F backwards. -/
theorem test_serBit_lsbFirst :
    field (fun t => (t.ser, t.result)) (exec (.serBit .high)
      { State.resetWith { Config.atReset with lsbFirst := true } with ser := ⟨.data 1, 1, 1, false⟩ }) =
    some (⟨.data 2, 3, 2, false⟩, .serBit .none) := by decide +kernel

/-- V-APP 1: a `score` frame. -/
theorem test_appDecode_score :
    field (fun t => (t.frames, t.diags))
      (exec (.appDecode false) (withBytes Config.atReset [0x8F, 0xA5, 0x33, 0x77, 0xAB, 0x05, 0xF1])) =
    some ([⟨.score, false, false, false, 5000, [0x8F, 0xA5, 0x33, 0x77, 0xAB, 0x05, 0xF1],
      [⟨1, 3⟩, ⟨2, 7⟩, ⟨3, 15⟩, ⟨8, 1⟩]⟩], []) := by decide +kernel

/-- V-APP 3: too short for the field map. -/
theorem test_appDecode_tooShortForMap :
    field (fun t => (t.frames.map fun e => (e.kind, e.bytes.length, e.fields), t.diags))
      (exec (.appDecode false) (withBytes Config.atReset [0x8F, 0xA5, 0x33, 0xF1])) =
    some ([(.unknown, 4, [])], [⟨.malformed, 5000⟩]) := by decide +kernel

/-- V-APP: a digit and the blank code. -/
theorem test_appDigit :
    field State.result (exec (.appDigit 0x33) State.reset) = some (.digit 3) ∧
    field State.result (exec (.appDigit 0xAB) State.reset) = some (.digit 15) := by decide +kernel

/-- V-APP, the FRAME record of program P2 as one 213-bit number (R112). -/
theorem test_frameBits :
    frameBits ⟨.score, false, false, false, 3, [0x8F, 0xA5, 0x33, 0x77, 0xAB, 0x05, 0xF1],
      [⟨1, 3⟩, ⟨2, 7⟩, ⟨3, 15⟩, ⟨8, 1⟩]⟩ =
    bitsOfNat 213 0x8000000000000000300078FA53377AB05F10401030207030F0801 := by decide +kernel

/-- A placed word is the next operation, whatever the mode was. -/
theorem test_step_word :
    field (fun t => (t.result, t.opBits)) (step ({ State.reset with rst := true }.withFetchWord 24 0x3E480)) =
    some (.magnitude 4, []) := by decide +kernel

/-- V-RUN 1: `SYMS` (R117) takes its indices in order. -/
theorem test_pseudoSyms : pseudoSyms .pos 2 3 = [.runSymbol .pos 3, .runSymbol .pos 4] := by decide

/-- R116: an operation as text. -/
theorem test_instrText : instrText (.swUpdate .phase (-6400)) = "SW.UPDATE F, -6400" := by decide +kernel

/-! ### Witnesses: for each statement with hypotheses, values that meet all of them, clause by clause at the boundaries -/

/-- A next state with a property that evaluates to true. -/
theorem exists_next {o : Host.Outcome State Fault Refusal} {p : State → Bool} (h : field p o = some true) :
    ∃ t, o = .next t ∧ p t = true := by
  cases o with
  | next t => exact ⟨t, rfl, by simpa [field, after] using h⟩
  | fault r => simp [field, after] at h
  | refused r => simp [field, after] at h

/-- A next state. -/
theorem exists_some {o : Host.Outcome State Fault Refusal} (h : (after o).isSome = true) : ∃ t, o = .next t := by
  cases o with
  | next t => exact ⟨t, rfl⟩
  | fault r => simp [after] at h
  | refused r => simp [after] at h

/-- The reset configuration with another carrier threshold. -/
def cfgThresh (x : Int) : Config := { Config.atReset with pwrThresh := x }

/-- A state before the second byte of a sample with a carrier after a run of no carrier, with one entry in `FB`. -/
def closing : State := { State.reset with
  diPhase := true, diHold := 128, prevI := 228, prevQ := 128, run := ⟨.zero, 3, 0⟩, fb := [⟨.pos, 3, 100⟩] }

/-- Frame buffer entries of the given lengths whose values alternate, low first. -/
def alternating (l : List Nat) : List ClassifiedBit :=
  l.zipIdx.map fun p =>
    ⟨if p.2 % 2 = 0 then .neg else .pos, BitVec.ofNat 32 p.1, BitVec.ofNat 64 (1000 + 10 * p.2)⟩

/-- The values and lengths of the 38 frame buffer entries of program P2 (95_test_vectors.md section 3). -/
def fbP2 : List ClassifiedBit :=
  alternating [1, 1, 1, 1, 3, 5, 1, 1, 1, 1, 2, 1, 1, 2, 3, 2, 2, 3, 2, 3, 1, 4, 1, 1, 1, 1, 1, 1, 1, 3, 6, 1, 1, 2, 1,
    4, 3, 2]

/-- Windows of one entry 0, as in these witnesses' configurations. -/
theorem unit_window_wf (sel : WindowSel) : (Window.init 1 0).wf sel := by
  cases sel <;> (unfold Window.wf; decide)

theorem witness_blockInv (x : Int) (h : (cfgThresh x).legal = true) : BlockInv (State.resetWith (cfgThresh x)) where
  legal := h
  pw := unit_window_wf .power
  fw := unit_window_wf .phase
  run := fun _ => rfl
  fb := ⟨Nat.zero_le _, nofun, nofun⟩
  ser := ⟨Nat.zero_le _, Nat.two_pow_pos _⟩
  bb := ⟨Nat.zero_le _, nofun, nofun⟩
  frames := nofun
  aux := nofun

theorem witness_DecodeEncodeRoundTrip :
    (Instr.swInit .phase 65535 (-32640)).wellFormed = true ∧ (Instr.swUpdate .power 5).wellFormed = true ∧
    (Instr.syncAppend .neg 0xFFFFFFFF 0).wellFormed = true := by decide

theorem witness_DecodedWordsReencode : decode (bitsOfNat 23 0x2F8080) = .ok (.swUpdate .phase (-32640), []) := rfl

theorem witness_InvalidWordsRejected :
    (14#4 ∈ [14#4, 15#4]) ∧ (6#4 ∈ [6#4, 7#4, 8#4]) ∧ (Symbol.zero = .zero ∨ (1 : Length) = 0) ∧
    (Symbol.pos = .zero ∨ (0 : Length) = 0) ∧ (1 : BitVec 16) ≠ 0 ∧
    ((-1 : BitVec 18).toInt < 0) ∧ (5 < (6 : BitVec 18).toInt) ∧ ((-32641 : BitVec 18).toInt < -32640) ∧
    (32640 < (32641 : BitVec 18).toInt) := by decide

/-- Magnitude √2 exceeds 1.0; magnitude exactly 1.0 does not (V-LUT 2, 3). -/
theorem witness_MagnitudeTableIsFlooredLog :
    1 < Real.sqrt ((centered 129 : ℝ) ^ 2 + (centered 129 : ℝ) ^ 2) ∧
    ¬ 1 < Real.sqrt ((centered 129 : ℝ) ^ 2 + (centered 128 : ℝ) ^ 2) := by
  have h1 : centered 129 = 1 := by decide
  have h0 : centered 128 = 0 := by decide
  rw [h1, h0]
  constructor
  · rw [Real.lt_sqrt] <;> norm_num
  · norm_num

theorem witness_MagLookupGivesRange :
    State.reset.cfg.legal = true ∧
    (((135 : Byte).toNat : Int) - 128) ^ 2 + (((130 : Byte).toNat : Int) - 128) ^ 2 = 53 ∧
    (((233 : Byte).toNat : Int) - 128) ^ 2 + (((233 : Byte).toNat : Int) - 128) ^ 2 = 22050 := by decide +kernel

theorem witness_MagnitudeTableLaws :
    (1 : Byte) ≠ 0 ∧ (255 : Byte) ≠ 0 ∧ centered 255 ^ 2 + centered 128 ^ 2 ≤ centered 0 ^ 2 + centered 0 ^ 2 := by decide

theorem witness_SwInitFillsWindow :
    (Instr.swInit .power 1 5).wellFormed = true ∧ (Instr.swInit .phase 65535 (-32640)).wellFormed = true ∧
    State.reset.cfg.legal = true := by decide +kernel

theorem witness_SwUpdateSlidesWindow :
    (Instr.swUpdate .power 5).wellFormed = true ∧ (Instr.swUpdate .phase 32640).wellFormed = true ∧
    State.reset.cfg.legal = true ∧ (State.reset.window .power).buf[(State.reset.window .power).pos]? = some 0 ∧
    (State.reset.window .phase).buf[(State.reset.window .phase).pos]? = some 0 := by decide +kernel

theorem witness_SlidingWindowLaws :
    1 ≤ 2 ∧ 2 ≤ [5, -2].length ∧ [5, -2].length ≤ 2 ∧
    ([5, -2].foldl Window.update (Window.init 2 0)).buf[([5, -2].foldl Window.update (Window.init 2 0)).pos]? = some 5 := by
  decide

theorem witness_DemodSampleDecides :
    State.reset.cfg.legal = true ∧
    -- no carrier at the threshold itself
    (({ State.reset with cfg := cfgThresh 4 }).pw.update (lut ((228 : Byte) ++ (128 : Byte)))).avg ≤ (cfgThresh 4).pwrThresh ∧
    -- a carrier just above it
    (cfgThresh 3).pwrThresh < (State.reset.pw.update (lut ((228 : Byte) ++ (128 : Byte)))).avg ∧
    -- the sums of both signs and zero
    0 < (State.reset.fw.update (iqCrossProduct 228 128 128 228)).sum ∧
    (State.reset.fw.update (iqCrossProduct 128 228 228 128)).sum < 0 ∧
    (State.reset.fw.update (iqCrossProduct 228 128 228 128)).sum = 0 ∧
    -- for a zero sum, a previous sum of either sign and zero
    (State.reset.fw.update 0).sum = 0 ∧ (State.reset.fw.update 0).prevSum = 0 ∧
    (Window.update ⟨[10000], 0, 10000, 0, 10000⟩ 0).sum = 0 ∧
    0 < (Window.update ⟨[10000], 0, 10000, 0, 10000⟩ 0).prevSum ∧
    (Window.update ⟨[-10000], 0, -10000, 0, -10000⟩ 0).sum = 0 ∧
    (Window.update ⟨[-10000], 0, -10000, 0, -10000⟩ 0).prevSum < 0 ∧
    State.reset.cfg.zeroFallbackEn = true ∧ ({ Config.atReset with zeroFallbackEn := false }).legal = true := by
  decide +kernel

theorem witness_CentreSampleHasNoRotation :
    State.reset.cfg.legal = true ∧ State.reset.prevI = 128 ∧ State.reset.prevQ = 128 := by decide +kernel

theorem witness_CarrierThresholdExtremes :
    BlockInv (State.resetWith (cfgThresh 5)) ∧ BlockInv (State.resetWith (cfgThresh (-1))) ∧
    (cfgThresh 5).pwrThresh = 5 ∧ (cfgThresh (-1)).pwrThresh = -1 :=
  ⟨witness_blockInv 5 (by decide +kernel), witness_blockInv (-1) (by decide +kernel), rfl, rfl⟩

theorem witness_InByteHoldsFirst : State.reset.cfg.legal = true ∧ State.reset.diPhase = false := by decide +kernel

theorem witness_InByteRunsStages : closing.cfg.legal = true ∧ closing.diPhase = true := by decide +kernel

theorem witness_RunSymbolTracksRuns :
    State.reset.cfg.legal = true ∧ Symbol.zero = State.reset.run.val ∧ Symbol.pos ≠ State.reset.run.val := by
  decide +kernel

/-- V-CLS 11 (confidence equal to the threshold), 12 and 13 (bit length 0), with the reference rates. -/
theorem witness_ClsRunQuantizes :
    (State.resetWith cfgRef).cfg.legal = true ∧ Symbol.neg ≠ .zero ∧
    confidence cfgRef 60 ≤ cfgRef.acceptThresh ∧ 0 < bitLength cfgRef 60 ∧
    ¬ (confidence cfgRef 70 ≤ cfgRef.acceptThresh) ∧ ¬ (0 < bitLength cfgRef 29) := by decide +kernel

/-- V-CLS table B: 2 → ev 8 (f = ONE/2), 3 → ev 12, 4 → ev 16. -/
theorem witness_ClassifierLaws :
    cfgP1.legal = true ∧ evaluation cfgP1 2 = 0 * 2 ^ cfgP1.shift + 8 ∧ 8 ≤ 2 ^ cfgP1.shift / 2 ∧
    evaluation cfgP1 3 = 0 * 2 ^ cfgP1.shift + 12 ∧ 2 ^ cfgP1.shift / 2 + 1 ≤ 12 ∧
    cfgP1.sampleRate = 4 * cfgP1.bitRate ∧
    ({ cfgP1 with acceptThresh := 8 }).acceptThresh = 2 ^ (cfgP1.shift - 1) ∧ 0 < bitLength cfgP1 3 ∧
    accepts { cfgP1 with acceptThresh := 0 } 4 = true := by decide +kernel

theorem witness_FirstCarrierSymbolClosesEmptyRun : Config.atReset.legal = true ∧ Symbol.neg ≠ .zero := by decide +kernel

theorem witness_SyncAppendBounded :
    (Instr.syncAppend .pos 1 0).wellFormed = true ∧ State.reset.cfg.legal = true ∧
    (List.replicate 63 (⟨.pos, 1, 0⟩ : ClassifiedBit)).length < State.reset.cfg.fbCap ∧
    State.reset.cfg.fbCap ≤ (List.replicate 64 (⟨.pos, 1, 0⟩ : ClassifiedBit)).length := by decide +kernel

/-- V-SYN 1: the match is at 1, and not at 0. -/
theorem witness_SyncMatchIsFirst :
    syncMatch Config.atReset.syncPattern
      [⟨.pos, 3, 100⟩, ⟨.neg, 1, 112⟩, ⟨.pos, 1, 116⟩, ⟨.neg, 1, 120⟩, ⟨.pos, 2, 124⟩] = some 1 ∧
    syncMatch Config.atReset.syncPattern [⟨.neg, 1, 5⟩] = none := by decide +kernel

theorem witness_SyncGapDecodesAndEmpties :
    State.reset.cfg.legal = true ∧ fbP2.length ≤ State.reset.cfg.fbCap ∧
    syncMatch State.reset.cfg.syncPattern fbP2 = some 0 ∧ (fbP2[0]?).isSome = true ∧
    syncMatch State.reset.cfg.syncPattern [] = none := by decide +kernel

theorem witness_SerBitInWait : State.reset.cfg.legal = true ∧ State.reset.ser.state = .wait := by decide +kernel

theorem witness_SerBitInData :
    State.reset.cfg.legal = true ∧ (⟨.data 7, 0x7F, 7, false⟩ : Serial).wf Config.atReset ∧
    (⟨.data 0, 0, 0, false⟩ : Serial).wf Config.atReset := by
  refine ⟨by decide +kernel, ?_, ?_⟩ <;> simp only [Serial.wf] <;> decide

theorem witness_SerBitInParity :
    (State.resetWith cfgEven).cfg.legal = true ∧
    ({ State.resetWith cfgEven with ser := ⟨.parity, 0xA5, 4, false⟩ }).ser.state = .parity := by decide +kernel

/-- With two stop bits, `STOP(0)` is not the last and `STOP(1)` is. -/
theorem witness_SerBitInStop :
    ({ Config.atReset with stopBits := 2 }).legal = true ∧
    0 + 1 < ({ Config.atReset with stopBits := 2 }).stopBits ∧
    ({ Config.atReset with stopBits := 2 }).stopBits ≤ 1 + 1 := by decide +kernel

theorem witness_CharacterRoundTrip :
    State.reset.cfg.legal = true ∧ State.reset.ser.state = .wait ∧ (255 : Byte).toNat < 2 ^ State.reset.cfg.dataBits ∧
    State.reset.bb.bytes.length < State.reset.cfg.byteCap := by decide +kernel

/-- V-SER, the split law: (-1,3) and (-1,1)(-1,2). -/
theorem witness_OnlyBitEventsMatter :
    State.reset.cfg.legal = true ∧
    expand ((suffix [(.neg, 3), (.pos, 5)]).drop 0) = expand ((suffix [(.neg, 1), (.neg, 2), (.pos, 5)]).drop 0) := by
  decide +kernel

theorem witness_SerFrameAttempt :
    State.reset.cfg.legal = true ∧ (suffix [(.neg, 3)]).length ≤ (1 : BitVec 16).toNat ∧
    State.reset.fb.length ≤ (0 : BitVec 16).toNat := by decide +kernel

theorem witness_AttemptDiagnosticsOrdered :
    ∃ t, exec (.serFrame 0 777) { State.reset with fb := suffix [(.neg, 10)] } = .next t ∧
      decide (t.result = .serFrame .ferr) = true := exists_next (by decide +kernel)

/-- R221: a character left unfinished, and none left. -/
theorem witness_AttemptDiagnosticsOrdered_partial :
    (∃ t, exec (.serFrame 0 777) { State.reset with fb := suffix [(.neg, 3)] } = .next t ∧
      decide (t.result = .serFrame .ok ∧ t.ser.state ≠ .wait ∧ t.diags = [⟨.partialChar, 777⟩]) = true) ∧
    ∃ t, exec (.serFrame 0 777) { State.reset with fb := suffix [(.pos, 3)] } = .next t ∧
      decide (t.result = .serFrame .ok ∧ t.ser.state = .wait ∧ t.diags = []) = true :=
  ⟨exists_next (by decide +kernel), exists_next (by decide +kernel)⟩

theorem witness_FeedBitsIsSerBit : State.reset.cfg.legal = true := by decide +kernel

/-- Three low bit events give no `FERR`; of ten the last is a low stop bit. -/
theorem witness_SerFrameFoldsBitEvents :
    State.reset.cfg.legal = true ∧
    (∀ e ∈ suffix [(.neg, 3)], e.val ≠ .zero) ∧ (∀ e ∈ suffix [(.neg, 10)], e.val ≠ .zero) ∧
    SerResult.ferr ∉ (feedBits (List.replicate 3 .low) State.reset).2 ∧
    (feedBits (List.replicate 10 .low) State.reset).2[9]? = some .ferr ∧
    ∀ j, j < 9 → (feedBits (List.replicate 10 .low) State.reset).2[j]? ≠ some .ferr := by decide +kernel

theorem witness_FramingErrorAborts :
    State.reset.cfg.legal = true ∧
    syncMatch State.reset.cfg.syncPattern (suffix [(.neg, 1), (.pos, 1), (.neg, 10)]) = some 0 ∧
    (suffix [(.neg, 1), (.pos, 1), (.neg, 10)])[0]? = some ⟨.neg, 1, 1000⟩ ∧
    (serFrame (0 + State.reset.cfg.syncPattern.length) 1000
      { State.reset with fb := suffix [(.neg, 1), (.pos, 1), (.neg, 10)] }).2 = .ferr := by decide +kernel

theorem witness_AppDecodeDropsAbortedAndShort :
    State.reset.cfg.legal = true ∧ (withBytes Config.atReset [0x8F, 0xA5, 0xF1]).bb.bytes.length ≤ 3 := by decide +kernel

/-- V-APP 1, 3, 8, 9, 11: a `score` frame, one too short for the map, unknown frames, and a `clock` frame. -/
theorem witness_AppDecodeReports :
    Config.atReset.legal = true ∧
    (withBytes Config.atReset [0x8F, 0xA5, 0x33, 0x77, 0xAB, 0x05, 0xF1]).bb.bytes =
      0x8F :: 0xA5 :: ([0x33, 0x77, 0xAB, 0x05] ++ [0xF1]) ∧ [(0x33 : Byte), 0x77, 0xAB, 0x05] ≠ [] ∧
    (withBytes Config.atReset [0x8F, 0xA5, 0x33, 0xF1]).bb.bytes = 0x8F :: 0xA5 :: ([0x33] ++ [0xF1]) ∧
    ({ Config.atReset with kinds := [⟨1, 0x8F, 0xA5, 0xF1⟩, ⟨2, 0x8F, 0xA6, 0xF2⟩] }).legal = true ∧
    ({ Config.atReset with dumpUnknownEn := false }).legal = true := by decide +kernel

theorem witness_AppDigitLooksUp :
    State.reset.cfg.legal = true ∧ State.reset.cfg.digitPatterns[9]? = some 0x99 ∧
    (0xAB : Byte) ∉ State.reset.cfg.digitPatterns := by decide +kernel

/-- A gap that reports program P2's frame. -/
theorem witness_FrameEventLaws :
    State.reset.cfg.legal = true ∧
    ∃ t, exec .syncGap { State.reset with fb := fbP2 } = .next t ∧
      decide (t.frames.length = 1 ∧ t.bb.bytes = [0x8F, 0xA5, 0x33, 0x77, 0xAB, 0x05, 0xF1]) = true :=
  ⟨by decide +kernel, exists_next (by decide +kernel)⟩

theorem witness_ResetGivesResetState : State.reset.cfgIn.legal = true := by decide +kernel

theorem witness_ResetIsIdempotent : closing.cfgIn.legal = true := by decide +kernel

/-- Both ends of the ranges of R9, and values just outside. -/
theorem witness_ConfigurationLegalIffInRange :
    (cfgThresh (-1)).legal = true ∧ (cfgThresh 5).legal = true ∧ (cfgThresh 6).legal = false ∧
    ({ Config.atReset with acceptThresh := 8 }).legal = true ∧ ({ Config.atReset with acceptThresh := 9 }).legal = false ∧
    ({ Config.atReset with syncPattern := [⟨.neg, 0⟩] }).legal = false ∧
    ({ Config.atReset with fbCap := 1 }).legal = false ∧
    ({ Config.atReset with kinds := [⟨3, 0x8F, 0xA5, 0xF1⟩] }).legal = false ∧
    ({ Config.atReset with digitPatterns := List.replicate 10 0 }).legal = false ∧
    ({ Config.atReset with fieldMap := [⟨1, 2, 0, 0⟩] }).legal = false := by decide +kernel

theorem witness_IllegalConfigurationRefused :
    ({ Config.atReset with bitRate := 3 }).legal = false ∧ ({ Config.atReset with byteCap := 3 }).legal = false ∧
    Instr.syncGap ≠ .reset ∧ (State.resetWith { Config.atReset with byteCap := 3 }).rst = false ∧
    (∀ rest, decode (State.resetWith { Config.atReset with byteCap := 3 }).opBits ≠ .ok (.reset, rest)) :=
  ⟨by decide +kernel, by decide +kernel, by decide, rfl, nofun⟩

theorem witness_ConfigurationIsFixed :
    (∃ t, exec .reset State.reset = .next t) ∧ ∃ t, exec (.inByte 7) State.reset = .next t :=
  ⟨exists_some (by decide +kernel), exists_some (by decide +kernel)⟩

theorem witness_EveryOperationCompletes :
    (Instr.serFrame 65535 0).wellFormed = true ∧ State.reset.cfg.legal = true ∧ State.reset.cfgIn.legal = true := by
  decide +kernel

theorem witness_StepRunsDecodedWord :
    State.reset.rst = false ∧ decode (bitsOfNat 12 0xD33) = .ok (.appDigit 0x33, []) := ⟨rfl, rfl⟩

theorem witness_StepRefusesInvalidWord :
    State.reset.rst = false ∧ bitsOfNat 4 0xE ≠ [] ∧ decode (bitsOfNat 4 0xE) = .error .reservedOpid :=
  ⟨rfl, by decide, rfl⟩

theorem witness_StepTakesNextByte :
    State.reset.rst = false ∧ State.reset.opBits = [] ∧
    ({ State.reset with inBytes := [0xE4, 0x80] }).inBytes = 0xE4 :: [0x80] ∧ State.reset.inBytes = [] ∧
    State.reset.cfg.legal = true ∧ (State.resetWith { Config.atReset with fbCap := 1 }).cfg.legal = false :=
  ⟨rfl, rfl, rfl, rfl, by decide +kernel, by decide +kernel⟩

/-- R11: a block with an illegal configuration does not even idle; one with a legal configuration does. -/
theorem test_step_idle :
    refusal (step (State.resetWith { Config.atReset with fbCap := 1 })) = some .illegalConfig ∧
    after (step State.reset) = some State.reset := by decide +kernel

theorem witness_StepInResetMode :
    ({ closing with rst := true }).rst = true ∧
    ∃ t, step { closing with rst := true } = .next t :=
  ⟨rfl, exists_some (by decide +kernel)⟩

theorem witness_RunningBlockNeverStops :
    State.reset.cfg.legal = true ∧ State.reset.cfgIn.legal = true ∧ State.reset.opBits = [] := by decide +kernel

theorem witness_InvariantHoldsAfterReset : (cfgThresh 5).legal = true ∧ cfgEven.legal = true := by decide +kernel

theorem witness_InvariantKeptByEveryStep :
    BlockInv (State.resetWith (cfgThresh 5)) ∧ ∃ t, step (State.resetWith (cfgThresh 5)) = .next t :=
  ⟨witness_blockInv 5 (by decide +kernel), exists_some (by decide +kernel)⟩

theorem witness_AtMostOneFramePerStep :
    ∃ t, exec (.appDecode false) (withBytes Config.atReset [1, 2, 3, 4]) = .next t ∧
      decide (t.frames.length = 1) = true := exists_next (by decide +kernel)

/-- The second byte of a sample with a carrier closes the gap behind program P2's frame. -/
theorem witness_FrameOnlyWhenGapCloses :
    ∃ t, exec (.inByte 228) { closing with fb := fbP2 } = .next t ∧
      decide (t.frames ≠ ({ closing with fb := fbP2 }).frames) = true := exists_next (by decide +kernel)

theorem witness_SampleCounterCountsSamples :
    ∃ t, exec (.demodSample 228 128) State.reset = .next t ∧ decide (t.n = 1) = true := exists_next (by decide +kernel)

theorem witness_OutputIsWriteOnly :
    ∃ t, exec (.clsRun .pos 0 7) { State.reset with frames := [], diags := [], aux := [] } = .next t ∧
      decide (t.diags = [⟨.lowConf, 7⟩]) = true := exists_next (by decide +kernel)

theorem witness_RunIsAStreamTransducer :
    Config.atReset.legal = true ∧ ({ Config.atReset with shift := 0 }).legal = false ∧
    (run Config.atReset [0xE4, 0x80]).isSome = true := by decide +kernel

end Sys2Proof.Machine
end

/-! ## Proofs: the scope of the model (spec/00_scope.md) -/

section
/-! The legality of a configuration as an equivalence, one lemma per group of fields (R9, R46, R60, R110, R114 (f)). -/

namespace Sys2Proof

theorem Config.legal_iff {c : Config} : c.legal = true ↔
    c.ratesLegal = true ∧ c.classifierLegal = true ∧ c.windowsLegal = true ∧ c.buffersLegal = true ∧
    c.framingLegal = true ∧ c.tablesLegal = true := by
  simp only [Config.legal, Bool.and_eq_true, and_assoc]

theorem Config.ratesLegal_iff {c : Config} : c.ratesLegal = true ↔
    (1 ≤ c.sampleRate ∧ c.sampleRate ≤ 2 ^ 32 - 1) ∧ 1 ≤ c.bitRate ∧ c.bitRate ≤ c.sampleRate := by
  rw [Config.ratesLegal, decide_eq_true_iff]
  omega

theorem Config.classifierLegal_iff {c : Config} : c.classifierLegal = true ↔
    (1 ≤ c.shift ∧ c.shift ≤ 15) ∧ c.acceptThresh ≤ 2 ^ (c.shift - 1) := by
  rw [Config.classifierLegal, decide_eq_true_iff, and_assoc]

theorem Config.windowsLegal_iff {c : Config} : c.windowsLegal = true ↔
    (-1 ≤ c.pwrThresh ∧ c.pwrThresh ≤ 5) ∧ (1 ≤ c.pwrWinN ∧ c.pwrWinN ≤ 65535) ∧
    (1 ≤ c.phWinN ∧ c.phWinN ≤ 65535) ∧ (0 ≤ c.pwrWinInit ∧ c.pwrWinInit ≤ 5) ∧
    -32640 ≤ c.phWinInit ∧ c.phWinInit ≤ 32640 := by
  simp only [Config.windowsLegal, Bool.and_eq_true, decide_eq_true_eq, WindowSel.admits_iff, WindowSel.lo,
    WindowSel.hi, and_assoc]

theorem Symbol.ne_zero_iff {v : Symbol} : v ≠ .zero ↔ v = .neg ∨ v = .pos := by
  cases v <;> decide

theorem Length.ne_zero_iff {l : Length} : l ≠ 0 ↔ 1 ≤ l.toNat ∧ l.toNat ≤ 2 ^ 32 - 1 := by
  bv_omega

theorem Config.buffersLegal_iff {c : Config} : c.buffersLegal = true ↔
    (1 ≤ c.syncPattern.length ∧ c.syncPattern.length ≤ c.fbCap) ∧
    (∀ p ∈ c.syncPattern, (p.val = .neg ∨ p.val = .pos) ∧ 1 ≤ p.len.toNat ∧ p.len.toNat ≤ 2 ^ 32 - 1) ∧
    (1 ≤ c.fbCap ∧ c.fbCap ≤ 65535) ∧ 4 ≤ c.byteCap ∧ c.byteCap ≤ 65535 := by
  simp only [Config.buffersLegal, decide_eq_true_eq, Symbol.ne_zero_iff, Length.ne_zero_iff]
  constructor
  · rintro ⟨hf, hf', hb, hb', hs, hs', hp⟩
    exact ⟨⟨hs, hs'⟩, hp, ⟨hf, hf'⟩, hb, hb'⟩
  · rintro ⟨⟨hs, hs'⟩, hp, ⟨hf, hf'⟩, hb, hb'⟩
    exact ⟨hf, hf', hb, hb', hs, hs', hp⟩

theorem Config.framingLegal_iff {c : Config} : c.framingLegal = true ↔
    (1 ≤ c.dataBits ∧ c.dataBits ≤ 8) ∧ 1 ≤ c.stopBits ∧ c.stopBits ≤ 3 := by
  rw [Config.framingLegal, decide_eq_true_iff, and_assoc]

/-- Ten digit patterns are distinct exactly if no earlier index holds the same pattern as a later one. -/
theorem digitPatterns_nodup_iff {l : List Byte} (h : l.length = 10) :
    l.Nodup ↔ ∀ j k, j < k → k < 10 → l[j]? ≠ l[k]? := by
  rw [List.nodup_iff_getElem?_ne_getElem?, h]

theorem Config.tablesLegal_iff {c : Config} : c.tablesLegal = true ↔
    (c.kinds.length ≤ 2 ∧ ∀ r ∈ c.kinds, r.kind = 1 ∨ r.kind = 2) ∧
    (c.digitPatterns.length = 10 ∧ ∀ j k, j < k → k < 10 → c.digitPatterns[j]? ≠ c.digitPatterns[k]?) ∧
    c.fieldMap.length ≤ 255 ∧ ∀ f ∈ c.fieldMap, f.ftype = 0 ∨ f.ftype = 1 := by
  rw [Config.tablesLegal, decide_eq_true_iff, and_assoc, ← and_congr_right digitPatterns_nodup_iff, and_assoc]

end Sys2Proof

namespace Sys2Proof.Machine

/-- Settles O60: the six groups of fields one by one, then the order of the fields. -/
theorem configurationLegalIffInRange : Obligations.ConfigurationLegalIffInRange := by
  intro c
  rw [Config.legal_iff, Config.ratesLegal_iff, Config.classifierLegal_iff, Config.windowsLegal_iff,
    Config.buffersLegal_iff, Config.framingLegal_iff, Config.tablesLegal_iff]
  constructor
  · rintro ⟨⟨hRate, hBit⟩, ⟨hShift, hAccept⟩, ⟨hPwr, hWindows⟩, ⟨hLen, hPat, hFb, hByte⟩, ⟨hData, hStop⟩, hTables⟩
    obtain ⟨hPwrN, hPhN, hPwrInit, hPhInit⟩ := hWindows
    exact ⟨hRate, hBit, hShift, hPwr, hAccept, hPwrN, hPhN, hPwrInit, hPhInit, hLen, hPat, hFb, hByte, hData, hStop,
      hTables⟩
  · rintro ⟨hRate, hBit, hShift, hPwr, hAccept, hPwrN, hPhN, hPwrInit, hPhInit, hLen, hPat, hFb, hByte, hData, hStop,
      hTables⟩
    exact ⟨⟨hRate, hBit⟩, ⟨hShift, hAccept⟩, ⟨hPwr, hPwrN, hPhN, hPwrInit, hPhInit⟩, ⟨hLen, hPat, hFb, hByte⟩,
      ⟨hData, hStop⟩, hTables⟩

end Sys2Proof.Machine
end

section
/-! What has a next state under an illegal configuration (R11), and what a step can fetch. -/

namespace Sys2Proof.Machine

/-- Every operation but RESET answers through `complete` with its effect (R270). -/
theorem exec_eq_complete {i : Instr} (h : i ≠ .reset) (s : State) : ∃ s', exec i s = complete i s s' := by
  cases i with
  | reset => exact absurd rfl h
  | _ => exact ⟨_, rfl⟩

/-- An operation other than RESET has a next state only under a legal configuration. -/
theorem legal_of_exec_eq_next {i : Instr} {s t : State} (hi : i ≠ .reset) (h : exec i s = .next t) :
    s.cfg.legal = true := by
  obtain ⟨s', e⟩ := exec_eq_complete hi s
  exact (next_exec e h).2.1

/-- RESET with illegal configuration inputs is refused. -/
theorem execReset_of_illegal {s : State} (h : s.cfgIn.legal = false) : exec .reset s = .refused .illegalConfig := by
  show execReset s = _
  simp [execReset, h]

theorem fetchByte_eq_run {s s' : State} {i : Instr} (h : fetchByte s = .run i s') :
    ∃ b rest, s.inBytes = b :: rest ∧ i = .inByte b ∧ s' = s.setInBytes rest := by
  unfold fetchByte at h
  split at h
  · next b rest hb =>
    cases h
    exact ⟨b, rest, hb, rfl, rfl⟩
  · cases h

theorem fetchWord_eq_run {s s' : State} {i : Instr} (h : fetchWord s = .run i s') :
    ∃ rest, decode s.opBits = .ok (i, rest) ∧ s' = s.setOpBits rest := by
  unfold fetchWord at h
  split at h
  · next j rest hd =>
    cases h
    exact ⟨rest, hd, rfl⟩
  · cases h

/-- Everything a step can perform: RESET while `rst` is high, the next byte of `IN`, or the word of a stage test
(R252, R287; log entries 3, 14). -/
theorem fetch_eq_run {s s' : State} {i : Instr} (h : fetch s = .run i s') :
    (s.rst = true ∧ i = .reset ∧ s' = s) ∨
    (s.rst = false ∧ s.opBits = [] ∧ ∃ b rest, s.inBytes = b :: rest ∧ i = .inByte b ∧ s' = s.setInBytes rest) ∨
    (s.rst = false ∧ s.opBits ≠ [] ∧ ∃ rest, decode s.opBits = .ok (i, rest) ∧ s' = s.setOpBits rest) := by
  unfold fetch at h
  split at h
  · next hr =>
    cases h
    exact .inl ⟨hr, rfl, rfl⟩
  · next hr =>
    have hr : s.rst = false := by simpa using hr
    split at h
    · next he => exact .inr (.inl ⟨hr, List.isEmpty_iff.mp he, fetchByte_eq_run h⟩)
    · next he => exact .inr (.inr ⟨hr, fun h0 => he (List.isEmpty_iff.mpr h0), fetchWord_eq_run h⟩)

/-- A step that is not RESET has a next state only under a legal configuration. -/
theorem legal_of_step_eq_next {s t : State} (hr : s.rst = false) (hw : ∀ rest, decode s.opBits ≠ .ok (.reset, rest))
    (h : step s = .next t) : s.cfg.legal = true := by
  obtain ⟨i, s', hf, hx⟩ | ⟨-, hl, -⟩ := step_eq_next.mp h
  · obtain ⟨hr', -, -⟩ | ⟨-, -, b, rest, -, rfl, rfl⟩ | ⟨-, -, rest, hd, rfl⟩ := fetch_eq_run hf
    · simp [hr] at hr'
    · exact legal_of_exec_eq_next (i := .inByte b) (s := s.setInBytes rest) nofun hx
    · have hi : i ≠ .reset := fun hi => hw rest (hi ▸ hd)
      exact legal_of_exec_eq_next (s := s.setOpBits rest) hi hx
  · exact hl

/-- Settles O42: an operation other than RESET, and a step that is not RESET, has a next state only under a legal
configuration, and RESET refuses illegal inputs. -/
theorem illegalConfigurationRefused : Obligations.IllegalConfigurationRefused := by
  intro s
  refine ⟨execReset_of_illegal, fun hl i t hi h => ?_, fun hl hr hw t h => ?_⟩
  · exact absurd (legal_of_exec_eq_next hi h) (by simp [hl])
  · exact absurd (legal_of_step_eq_next hr hw h) (by simp [hl])

end Sys2Proof.Machine
end

/-! ## Proofs: the state and its invariant (spec/10_state.md) -/

section
/-! Everything an operation can do, as one function of the state, and what every operation but RESET leaves alone. -/

namespace Sys2Proof.Machine

/-- The state in which an operation completes (R90): the effect that its arm of `exec` has, with the result record. -/
def effect (i : Instr) (s : State) : State :=
  match i with
  | .reset => (resetBlock s).setResult .none
  | .inByte b => (inByte b s).setResult .none
  | .demodSample x q => (demodSample x q s).1.setResult (.symbol (demodSample x q s).2)
  | .magLookup x q => s.setResult (.magnitude (magLookup x q))
  | .swInit sel n v => (swInit sel n.toNat v.toInt s).setResult .none
  | .swUpdate sel v =>
    (swUpdate sel v.toInt s).setResult (.average ((swUpdate sel v.toInt s).window sel).avg)
  | .runSymbol sym idx => (runSymbol ⟨sym, idx⟩ s).1.setResult (runResult (runSymbol ⟨sym, idx⟩ s).2)
  | .clsRun val len start =>
    (clsRun ⟨val, len, start⟩ s).1.setResult (.classified (clsRun ⟨val, len, start⟩ s).2)
  | .syncAppend val len start => (syncAppend ⟨val, len, start⟩ s).setResult .none
  | .syncGap => (syncGap s).1.setResult (eventResult (syncGap s).2)
  | .serFrame ds x => (serFrame ds.toNat x s).1.setResult (.serFrame (serFrame ds.toNat x s).2)
  | .serBit b => (serBit b s).1.setResult (.serBit (serBit b s).2)
  | .appDecode a => (appDecode a s).1.setResult (eventResult (appDecode a s).2)
  | .appDigit b => s.setResult (.digit (appDigit b s))

/-- Every operation but RESET answers through `complete` with its effect. -/
theorem exec_eq_complete_effect {i : Instr} (hi : i ≠ .reset) (s : State) : exec i s = complete i s (effect i s) := by
  cases i with
  | reset => exact absurd rfl hi
  | _ => rfl

/-- An operation with a next state has operands in range and a legal configuration, and the next state is its effect. -/
theorem exec_inv {i : Instr} {s t : State} (h : exec i s = .next t) :
    effect i s = t ∧ i.defect = none ∧ (i ≠ .reset → s.cfg.legal = true) ∧ (i = .reset → s.cfgIn.legal = true) := by
  by_cases hi : i = .reset
  · subst hi
    obtain ⟨hl, ht⟩ := execReset_eq_next.mp h
    exact ⟨ht, rfl, fun hne => absurd rfl hne, fun _ => hl⟩
  · obtain ⟨hd, hl, ht⟩ := next_exec (exec_eq_complete_effect hi s) h
    exact ⟨ht, hd, fun _ => hl, fun he => absurd he hi⟩

/-- `t` has the configuration registers, the pins, the bytes and the words offered of `s` (R45, R252). -/
def KeepsHost (s t : State) : Prop :=
  t.cfg = s.cfg ∧ t.cfgIn = s.cfgIn ∧ t.rst = s.rst ∧ t.inBytes = s.inBytes ∧ t.opBits = s.opBits

theorem KeepsHost.refl (s : State) : KeepsHost s s := ⟨rfl, rfl, rfl, rfl, rfl⟩

theorem SampleOnly.keepsHost {s t : State} (h : SampleOnly s t) : KeepsHost s t := by
  unfold SampleOnly at h
  rw [h]
  exact .refl s

theorem GapOnly.keepsHost {s t : State} (h : GapOnly s t) : KeepsHost s t := h.sampleOnly.keepsHost

theorem setWindow_only (sel : WindowSel) (w : Window) (s : State) : SampleOnly s (s.setWindow sel w) := by
  cases sel <;> rfl

theorem inByte_keepsHost (b : Byte) (s : State) : KeepsHost s (inByte b s) := by
  unfold inByte
  split
  · exact (pipelineStep_only s.diHold b (s.setDi false s.diHold)).keepsHost
  · exact .refl s

theorem effect_keepsHost {i : Instr} (hi : i ≠ .reset) (s : State) : KeepsHost s (effect i s) := by
  cases i with
  | reset => exact absurd rfl hi
  | inByte b => exact inByte_keepsHost b s
  | demodSample x q => exact (demodSample_only x q s).keepsHost
  | magLookup x q => exact .refl s
  | swInit sel n v => exact (setWindow_only sel _ s).keepsHost
  | swUpdate sel v => exact (setWindow_only sel _ s).keepsHost
  | runSymbol sym idx => exact (runSymbol_only _ s).keepsHost
  | clsRun val len start => exact (clsRun_only _ s).gapOnly.keepsHost
  | syncAppend val len start => exact (syncAppend_only _ s).keepsHost
  | syncGap => exact (syncGap_only s).keepsHost
  | serFrame ds x => exact (serFrame_only _ x s).gapOnly.keepsHost
  | serBit b => exact (serBit_only b s).gapOnly.keepsHost
  | appDecode a => exact (appDecode_only a s).gapOnly.keepsHost
  | appDigit b => exact .refl s

/-- Settles O43: RESET loads the configuration inputs, and every other operation leaves what is the host's alone. -/
theorem configurationIsFixed : Obligations.ConfigurationIsFixed := by
  intro i s t h
  obtain ⟨rfl, -⟩ := exec_inv h
  by_cases hi : i = .reset
  · subst hi
    exact ⟨fun hne => absurd rfl hne, fun _ => rfl, rfl, rfl, rfl, rfl⟩
  · obtain ⟨hcfg, hpins⟩ := effect_keepsHost hi s
    exact ⟨fun _ => hcfg, fun he => absurd he hi, hpins⟩

/-- Settles O40: RESET completes with its effect, and the effect is this record field by field. -/
theorem resetGivesResetState : Obligations.ResetGivesResetState :=
  fun _ h => execReset_eq_next.mpr ⟨h, rfl⟩

end Sys2Proof.Machine
end

section
/-! The sample counter (R24): DEMOD.SAMPLE adds 1, and no later stage of a step writes it. -/

namespace Sys2Proof.Machine

theorem GapOnly.n_eq {s t : State} (h : GapOnly s t) : t.n = s.n := by
  unfold GapOnly at h
  rw [h]

theorem runSymbol_n (r : SymbolRec) (s : State) : (runSymbol r s).1.n = s.n := by
  unfold runSymbol
  split <;> rfl

theorem demodSample_n (i q : Byte) (s : State) : (demodSample i q s).1.n = s.n + 1 := rfl

theorem pipelineStep_n (i q : Byte) (s : State) : (pipelineStep i q s).n = s.n + 1 := by
  unfold pipelineStep
  rw [(afterRun_only _ _).n_eq, runSymbol_n, demodSample_n]

theorem inByte_n (b : Byte) (s : State) : (inByte b s).n = if s.diPhase then s.n + 1 else s.n := by
  unfold inByte
  split
  · exact pipelineStep_n s.diHold b (s.setDi false s.diHold)
  · rfl

/-- Settles O54: operation by operation, from what each leaves alone. -/
theorem sampleCounterCountsSamples : Obligations.SampleCounterCountsSamples := by
  intro i s t h
  obtain ⟨rfl, -⟩ := exec_inv h
  cases i with
  | reset => rfl
  | inByte b => exact inByte_n b s
  | demodSample x q => exact demodSample_n x q s
  | magLookup x q => rfl
  | swInit sel n v => exact State.setWindow_n s sel _
  | swUpdate sel v => exact State.setWindow_n s sel _
  | runSymbol sym idx => exact runSymbol_n _ s
  | clsRun val len start => exact (clsRun_only _ s).gapOnly.n_eq
  | syncAppend val len start => exact (syncAppend_only _ s).n_eq
  | syncGap => exact (syncGap_only s).n_eq
  | serFrame ds x => exact (serFrame_only _ x s).gapOnly.n_eq
  | serBit b => exact (serBit_only b s).gapOnly.n_eq
  | appDecode a => exact (appDecode_only a s).gapOnly.n_eq
  | appDigit b => rfl

end Sys2Proof.Machine
end

section
/-! The sliding window (R26): SW.INIT establishes the invariant, SW.UPDATE keeps it, and it bounds sum and average. -/

namespace Sys2Proof.Machine

theorem Window.init_wf {sel : WindowSel} {n : Nat} {v : Int} (h1 : 1 ≤ n) (h2 : n ≤ 65535)
    (hv : sel.lo ≤ v ∧ v ≤ sel.hi) : (Window.init n v).wf sel := by
  have hn : (0 : Int) < n := by omega
  have hsize : (Window.init n v).size = n := Window.size_init n v
  unfold Window.wf
  rw [hsize]
  refine ⟨h1, h2, h1, fun x hx => ?_, ?_, ?_, ?_, ?_⟩
  · rw [List.eq_of_mem_replicate hx]
    exact hv
  · simp [Window.init]
  · exact (Int.mul_tdiv_cancel_left v hn.ne').symm
  · show sel.lo * n ≤ n * v
    rw [mul_comm]
    exact mul_le_mul_of_nonneg_left hv.1 hn.le
  · show n * v ≤ sel.hi * n
    rw [mul_comm sel.hi]
    exact mul_le_mul_of_nonneg_left hv.2 hn.le

/-- The sum of N entries in range is in N times the range. -/
theorem Window.sum_bounds {sel : WindowSel} {w : Window} (h : w.wf sel) :
    sel.lo * w.size ≤ w.sum ∧ w.sum ≤ sel.hi * w.size := by
  obtain ⟨-, -, -, hent, hsum, -⟩ := h
  rw [hsum, mul_comm sel.lo, mul_comm sel.hi]
  constructor
  · simpa [Window.size] using w.buf.card_nsmul_le_sum sel.lo fun x hx => (hent x hx).1
  · simpa [Window.size] using w.buf.sum_le_card_nsmul sel.hi fun x hx => (hent x hx).2

/-- The average of entries in range is in the same range: truncation toward zero does not leave it. -/
theorem Window.avg_bounds {sel : WindowSel} {w : Window} (h : w.wf sel) : sel.lo ≤ w.avg ∧ w.avg ≤ sel.hi := by
  obtain ⟨hlo, hhi⟩ := Window.sum_bounds h
  obtain ⟨h1, -, -, -, -, havg, -⟩ := h
  have hn : (0 : Int) < w.size := by omega
  rw [havg]
  refine ⟨Int.le_tdiv_of_mul_le hn hlo, (Int.tdiv_le_tdiv hn hhi).trans_eq ?_⟩
  exact Int.mul_tdiv_cancel _ hn.ne'

/-- Replacing the oldest entry changes the total of the entries as an update changes the sum. -/
theorem Window.sum_set_pos {w : Window} (v : Int) (h : w.pos < w.size) :
    (w.buf.set w.pos v).sum = w.buf.sum - w.oldest + v := by
  have h' : w.pos < w.buf.length := h
  rw [List.sum_set', dif_pos h', Window.oldest, List.getD_eq_getElem _ _ h']
  omega

theorem Window.update_wf {sel : WindowSel} {w : Window} {v : Int} (h : w.wf sel) (hv : sel.lo ≤ v ∧ v ≤ sel.hi) :
    (w.update v).wf sel := by
  have hbounds := Window.sum_bounds h
  obtain ⟨h1, h2, hpos, hent, hsum, -⟩ := h
  have hpos' := Window.pos_update v h1
  unfold Window.wf
  rw [Window.size_update] at hpos' ⊢
  refine ⟨h1, h2, hpos', fun x hx => ?_, ?_, rfl, hbounds⟩
  · rcases List.mem_or_eq_of_mem_set hx with hx | rfl
    · exact hent x hx
    · exact hv
  · show w.sum - w.oldest + v = (w.buf.set w.pos v).sum
    rw [Window.sum_set_pos v hpos, hsum]

theorem magLookup_bounds (i q : Byte) :
    WindowSel.power.lo ≤ (magLookup i q : Int) ∧ (magLookup i q : Int) ≤ WindowSel.power.hi := by
  have h : magLookup i q ≤ 5 := magOfSquared_le _
  exact ⟨Int.natCast_nonneg _, Int.ofNat_le.mpr h⟩

theorem centered_bounds (b : Byte) : -128 ≤ centered b ∧ centered b ≤ 127 := by
  have := b.isLt
  simp only [centered, Config.center]
  omega

/-- The corners are (-128) · 127 and (-128) · (-128). -/
theorem centered_mul_bounds (a b : Byte) :
    -16256 ≤ centered a * centered b ∧ centered a * centered b ≤ 16384 := by
  obtain ⟨ha, ha'⟩ := centered_bounds a
  obtain ⟨hb, hb'⟩ := centered_bounds b
  constructor <;> nlinarith

theorem iqCrossProduct_bounds (prevI prevQ i q : Byte) :
    WindowSel.phase.lo ≤ iqCrossProduct prevI prevQ i q ∧ iqCrossProduct prevI prevQ i q ≤ WindowSel.phase.hi := by
  have h1 := centered_mul_bounds prevI q
  have h2 := centered_mul_bounds prevQ i
  simp only [iqCrossProduct, WindowSel.lo, WindowSel.hi]
  omega

end Sys2Proof.Machine
end

section
/-! One rule per named update of State: what a write has to meet for the invariant to stay. Writes to registers the
invariant does not speak of meet it always. -/

namespace Sys2Proof.Machine

theorem BlockInv.setDi {s : State} (h : BlockInv s) (p : Bool) (b : Byte) : BlockInv (s.setDi p b) := { h with }

theorem BlockInv.setPrev {s : State} (h : BlockInv s) (i q : Byte) : BlockInv (s.setPrev i q) := { h with }

theorem BlockInv.setN {s : State} (h : BlockInv s) (k : Index) : BlockInv (s.setN k) := { h with }

theorem BlockInv.setResult {s : State} (h : BlockInv s) (r : OpResult) : BlockInv (s.setResult r) := { h with }

theorem BlockInv.setInBytes {s : State} (h : BlockInv s) (l : List Byte) : BlockInv (s.setInBytes l) := { h with }

theorem BlockInv.setOpBits {s : State} (h : BlockInv s) (l : List Bool) : BlockInv (s.setOpBits l) := { h with }

theorem BlockInv.raise {s : State} (h : BlockInv s) (c : DiagCode) (x : Index) : BlockInv (s.raise c x) := { h with }

theorem BlockInv.setRun {s : State} {r : Run} (h : BlockInv s) (hr : r.wf) : BlockInv (s.setRun r) :=
  { h with run := hr }

theorem BlockInv.setFb {s : State} {fb : List ClassifiedBit} {trunc : Bool} (h : BlockInv s)
    (hfb : fbWf (s.setFb fb trunc)) : BlockInv (s.setFb fb trunc) :=
  { h with fb := hfb }

theorem BlockInv.setSer {s : State} {r : Serial} (h : BlockInv s) (hr : r.wf s.cfg) : BlockInv (s.setSer r) :=
  { h with ser := hr }

theorem BlockInv.setBb {s : State} {b : ByteBuffer} (h : BlockInv s) (hb : b.wf s.cfg) : BlockInv (s.setBb b) :=
  { h with bb := hb }

theorem BlockInv.emit {s : State} {e : FrameEvent} (h : BlockInv s) (he : e.wf) : BlockInv (s.emit e) :=
  { h with frames := List.forall_mem_append.mpr ⟨h.frames, List.forall_mem_singleton.mpr he⟩ }

theorem BlockInv.deliverAux {s : State} {a : AuxSample} (h : BlockInv s) (ha : a.wf) : BlockInv (s.deliverAux a) :=
  { h with aux := List.forall_mem_append.mpr ⟨h.aux, List.forall_mem_singleton.mpr ha⟩ }

theorem BlockInv.setWindow {s : State} {sel : WindowSel} {w : Window} (h : BlockInv s) (hw : w.wf sel) :
    BlockInv (s.setWindow sel w) := by
  cases sel with
  | power => exact { h with pw := hw }
  | phase => exact { h with fw := hw }

theorem BlockInv.window {s : State} (h : BlockInv s) (sel : WindowSel) : (s.window sel).wf sel := by
  cases sel with
  | power => exact h.pw
  | phase => exact h.fw

end Sys2Proof.Machine
end

section
/-! The reset state (R55), and RESET. -/

namespace Sys2Proof.Machine

theorem resetWith_blockInv {c : Config} (h : c.legal = true) : BlockInv (State.resetWith c) := by
  obtain ⟨⟨-, -, hp1, hp2, hf1, hf2⟩, hpv, hfv⟩ := Config.legal_windows h
  exact {
    legal := h
    pw := Window.init_wf hp1 hp2 (WindowSel.admits_iff.mp hpv)
    fw := Window.init_wf hf1 hf2 (WindowSel.admits_iff.mp hfv)
    run := fun _ => rfl
    fb := ⟨Nat.zero_le _, nofun, nofun⟩
    ser := ⟨Nat.zero_le _, Nat.two_pow_pos _⟩
    bb := ⟨Nat.zero_le _, nofun, nofun⟩
    frames := nofun
    aux := nofun }

/-- RESET makes every register that of the reset state and keeps the events delivered before (log entry 9). -/
theorem resetBlock_blockInv {s : State} (h : BlockInv s) (hl : s.cfgIn.legal = true) : BlockInv (resetBlock s) :=
  { resetWith_blockInv hl with frames := h.frames, aux := h.aux }

/-- Settles O50: from the ranges a legal configuration gives its windows. -/
theorem invariantHoldsAfterReset : Obligations.InvariantHoldsAfterReset :=
  ⟨fun _ h => resetWith_blockInv h, resetWith_blockInv (by decide)⟩

end Sys2Proof.Machine
end

section
/-! The window operations and the demodulator keep the invariant (R141, R142, R152). -/

namespace Sys2Proof.Machine

theorem swInit_blockInv {s : State} {sel : WindowSel} {n : Nat} {v : Int} (h : BlockInv s) (h1 : 1 ≤ n)
    (h2 : n ≤ 65535) (hv : sel.lo ≤ v ∧ v ≤ sel.hi) : BlockInv (swInit sel n v s) :=
  h.setWindow (Window.init_wf h1 h2 hv)

theorem swUpdate_blockInv {s : State} {sel : WindowSel} {v : Int} (h : BlockInv s) (hv : sel.lo ≤ v ∧ v ≤ sel.hi) :
    BlockInv (swUpdate sel v s) :=
  h.setWindow (Window.update_wf (h.window sel) hv)

theorem demodWindows_blockInv {s : State} (i q : Byte) (h : BlockInv s) : BlockInv (demodWindows i q s) :=
  swUpdate_blockInv (swUpdate_blockInv h (magLookup_bounds i q)) (iqCrossProduct_bounds s.prevI s.prevQ i q)

/-- The averages of a block fit the ports of the auxiliary pair (R118). -/
theorem auxSample_wf {s : State} (h : BlockInv s) : AuxSample.wf ⟨s.pw.avg, s.fw.avg⟩ := by
  obtain ⟨hp, hp'⟩ := Window.avg_bounds h.pw
  obtain ⟨hf, hf'⟩ := Window.avg_bounds h.fw
  exact ⟨hp, hp', hf, hf'⟩

theorem demodSample_blockInv {s : State} (i q : Byte) (h : BlockInv s) : BlockInv (demodSample i q s).1 := by
  have hw := demodWindows_blockInv i q h
  exact ((hw.deliverAux (auxSample_wf hw)).setPrev i q).setN (s.n + 1)

end Sys2Proof.Machine
end

section
/-! The classifier and the frame buffer keep the invariant (R171, R174, R191). -/

namespace Sys2Proof.Machine

theorem ofNat_length_ne_zero {k : Nat} (hpos : 0 < k) (hlt : k < 2 ^ 32) : (BitVec.ofNat 32 k : Length) ≠ 0 := by
  intro h
  have h0 := congrArg BitVec.toNat h
  rw [BitVec.toNat_ofNat, Nat.mod_eq_of_lt hlt] at h0
  exact hpos.ne' h0

/-- A saturating length never goes back to 0 (R31). -/
theorem saturatingSucc_ne_zero (l : Length) : saturatingSucc l ≠ 0 :=
  ofNat_length_ne_zero (by omega) (by omega)

theorem runSymbol_blockInv {s : State} (r : SymbolRec) (h : BlockInv s) : BlockInv (runSymbol r s).1 := by
  unfold runSymbol
  split
  · exact h.setRun fun h0 => absurd h0 (saturatingSucc_ne_zero _)
  · exact h.setRun fun h0 => absurd h0 (by decide : (1 : Length) ≠ 0)

/-- A run has at most as many bits as samples, since the bit rate is at most the sample rate (R9, R174). -/
theorem bitLength_le {c : Config} (h : c.legal = true) (len : Nat) : bitLength c len ≤ len := by
  obtain ⟨-, -, -, hrate⟩ := Config.legal_rates h
  have hev : evaluation c len ≤ len * 2 ^ c.shift := by
    rw [evaluation_eq]
    exact Nat.div_le_of_le_mul (Nat.mul_le_mul_right _ hrate)
  have hone : 0 < 2 ^ c.shift := Nat.two_pow_pos _
  rw [bitLength_eq, ← Nat.lt_succ_iff, Nat.div_lt_iff_lt_mul hone, Nat.succ_mul]
  omega

/-- The classifier makes only ClassifiedBit records with a value and a length (R99, R174). -/
theorem clsRun_bit {s : State} {r : Run} {cb : ClassifiedBit} (hl : s.cfg.legal = true)
    (h : (clsRun r s).2 = .bit cb) : cb.val ≠ .zero ∧ cb.len ≠ 0 := by
  unfold clsRun at h
  split at h
  · cases h
  · next hval =>
    split at h
    · next hacc =>
      cases h
      obtain ⟨-, hpos⟩ := of_decide_eq_true hacc
      have hle := bitLength_le hl r.len.toNat
      have hlt := r.len.isLt
      exact ⟨hval, ofNat_length_ne_zero hpos (by omega)⟩
    · cases h

theorem clsRun_blockInv {s : State} (r : Run) (h : BlockInv s) : BlockInv (clsRun r s).1 := by
  unfold clsRun
  split
  · exact h
  · split
    · exact h
    · exact h.raise .lowConf r.start

/-- The flag is set only where the buffer is full (R40 (b)). -/
theorem setFbTrunc_blockInv {s : State} (x : Index) (h : BlockInv s) (hfull : s.fb.length = s.cfg.fbCap) :
    BlockInv (setFbTrunc s x) := by
  obtain ⟨hcap, -, hent⟩ := h.fb
  have hfb : fbWf (s.setFb s.fb true) := ⟨hcap, fun _ => hfull, hent⟩
  unfold setFbTrunc
  split
  · exact h.setFb hfb
  · exact (h.raise .fbTrunc x).setFb hfb

theorem syncAppend_blockInv {s : State} {e : ClassifiedBit} (h : BlockInv s) (he : e.val ≠ .zero ∧ e.len ≠ 0) :
    BlockInv (syncAppend e s) := by
  obtain ⟨hcap, htrunc, hent⟩ := h.fb
  unfold syncAppend State.fbLen
  split
  · next hlt =>
    refine h.setFb ⟨?_, fun ht => ?_, List.forall_mem_append.mpr ⟨hent, List.forall_mem_singleton.mpr he⟩⟩
    · simpa using hlt
    · exact absurd (htrunc ht) hlt.ne
  · next hge => exact setFbTrunc_blockInv e.start h (by omega)

end Sys2Proof.Machine
end

section
/-! The serial registers in each state, and what a bit event and a byte make of them (R33, R34, R213 to R218; D38). -/

namespace Sys2Proof.Machine

theorem Serial.wf_data {c : Config} {r : Serial} {i : Nat} (h : r.wf c) (hs : r.state = .data i) :
    i < c.dataBits ∧ r.ones ≤ i ∧ r.acc.toNat < 2 ^ i := by
  unfold Serial.wf at h
  rwa [hs] at h

theorem Serial.wf_parity {c : Config} {r : Serial} (h : r.wf c) (hs : r.state = .parity) :
    c.parityMode ≠ .none ∧ r.ones ≤ c.dataBits ∧ r.acc.toNat < 2 ^ c.dataBits := by
  unfold Serial.wf at h
  rwa [hs] at h

theorem Serial.wf_stop {c : Config} {r : Serial} {j : Nat} (h : r.wf c) (hs : r.state = .stop j) :
    j < c.stopBits ∧ r.ones ≤ c.dataBits ∧ r.acc.toNat < 2 ^ c.dataBits := by
  unfold Serial.wf at h
  rwa [hs] at h

/-- After data bit `i` the accumulator holds at most `i + 1` bits, in both bit orders (R214). -/
theorem shiftIn_lt (lsbFirst : Bool) {i : Nat} {acc : Byte} (bit : Bool) (h : acc.toNat < 2 ^ i) :
    (shiftIn lsbFirst i acc bit).toNat < 2 ^ (i + 1) := by
  have hbit : (BitVec.ofNat 8 bit.toNat).toNat ≤ 1 := by cases bit <;> decide
  have hpow : 2 ^ (i + 1) = 2 * 2 ^ i := Nat.pow_succ'
  unfold shiftIn
  split <;> rw [BitVec.toNat_or] <;> apply Nat.or_lt_two_pow
  · omega
  · rw [BitVec.toNat_shiftLeft, Nat.shiftLeft_eq]
    have := Nat.mul_le_mul_right (2 ^ i) hbit
    exact (Nat.mod_le _ _).trans_lt (by omega)
  · rw [BitVec.toNat_shiftLeft, Nat.shiftLeft_eq]
    exact (Nat.mod_le _ _).trans_lt (by omega)
  · omega

/-- The state that follows data bit `i` exists in the configuration, and may hold what `i + 1` data bits give (R214). -/
theorem afterData_wf {c : Config} {i : Nat} {acc : Byte} {ones : Nat} {par : Bool} (hl : c.legal = true)
    (hi : i < c.dataBits) (hones : ones ≤ i + 1) (hacc : acc.toNat < 2 ^ (i + 1)) :
    Serial.wf c ⟨afterData c i, acc, ones, par⟩ := by
  obtain ⟨-, -, hstop, -⟩ := Config.legal_framing hl
  unfold afterData
  split
  · next hlt => exact ⟨hlt, hones, hacc⟩
  · next hge =>
    have hlast : i + 1 = c.dataBits := by omega
    rw [hlast] at hones hacc
    split
    · next hpar => exact ⟨hpar, hones, hacc⟩
    · exact ⟨hstop, hones, hacc⟩

theorem serWait_blockInv {s : State} (b : Level) (h : BlockInv s) : BlockInv (serWait b s) := by
  obtain ⟨hdata, -, -, -⟩ := Config.legal_framing h.legal
  cases b with
  | low => exact h.setSer ⟨hdata, Nat.le_refl 0, Nat.one_pos⟩
  | high => exact h

theorem serData_blockInv {s : State} {i : Nat} (b : Level) (h : BlockInv s) (hs : s.ser.state = .data i) :
    BlockInv (serData i b s) := by
  obtain ⟨hi, hones, hacc⟩ := Serial.wf_data h.ser hs
  have hbit : (levelBit b).toNat ≤ 1 := Bool.toNat_le _
  exact h.setSer (afterData_wf h.legal hi (by omega) (shiftIn_lt _ _ hacc))

theorem serParity_blockInv {s : State} (b : Level) (h : BlockInv s) (hs : s.ser.state = .parity) :
    BlockInv (serParity b s) := by
  obtain ⟨-, -, hstop, -⟩ := Config.legal_framing h.legal
  obtain ⟨-, hones, hacc⟩ := Serial.wf_parity h.ser hs
  exact h.setSer ⟨hstop, hones, hacc⟩

/-- The flag is set only where the buffer is full (R40 (c)). -/
theorem setBbTrunc_blockInv {s : State} (h : BlockInv s) (hfull : s.bb.bytes.length = s.cfg.byteCap) :
    BlockInv (setBbTrunc s) := by
  obtain ⟨hcap, -, hbytes⟩ := h.bb
  have hbb : ByteBuffer.wf s.cfg { s.bb with trunc := true } := ⟨hcap, fun _ => hfull, hbytes⟩
  unfold setBbTrunc
  split
  · exact h.setBb hbb
  · exact (h.raise .bbTrunc s.bb.start).setBb hbb

theorem setBbPerr_blockInv {s : State} (h : BlockInv s) : BlockInv (setBbPerr s) := by
  have hbb : ByteBuffer.wf s.cfg { s.bb with perr := true } := h.bb
  unfold setBbPerr
  split
  · exact h.setBb hbb
  · exact (h.raise .perr s.bb.start).setBb hbb

theorem storeByte_blockInv {s : State} {v : Byte} (p : Bool) (h : BlockInv s) (hv : v.toNat < 2 ^ s.cfg.dataBits) :
    BlockInv (storeByte v p s) := by
  obtain ⟨hcap, htrunc, hbytes⟩ := h.bb
  have hstored : BlockInv
      (if s.bbLen < s.cfg.byteCap then s.setBb { s.bb with bytes := s.bb.bytes ++ [v] } else setBbTrunc s) := by
    unfold State.bbLen
    split
    · next hlt =>
      refine h.setBb ⟨?_, fun ht => ?_, List.forall_mem_append.mpr ⟨hbytes, List.forall_mem_singleton.mpr hv⟩⟩
      · simpa using hlt
      · exact absurd (htrunc ht) hlt.ne
    · next hge => exact setBbTrunc_blockInv h (by omega)
  cases p with
  | false => exact hstored
  | true => exact setBbPerr_blockInv hstored

theorem emitByte_blockInv {s : State} (h : BlockInv s) (hones : s.ser.ones ≤ s.cfg.dataBits)
    (hacc : s.ser.acc.toNat < 2 ^ s.cfg.dataBits) : BlockInv (emitByte s).1 := by
  have hwf : Serial.wf s.cfg { s.ser with state := .wait } := ⟨hones, hacc⟩
  obtain ⟨hcfg, -⟩ := (storeByte_only s.ser.acc (parityError s.cfg s.ser.ones s.ser.par) s).gapOnly.keepsHost
  exact (storeByte_blockInv _ h hacc).setSer (by rw [hcfg]; exact hwf)

theorem serStop_blockInv {s : State} {j : Nat} (b : Level) (h : BlockInv s) (hs : s.ser.state = .stop j) :
    BlockInv (serStop j b s).1 := by
  obtain ⟨-, hones, hacc⟩ := Serial.wf_stop h.ser hs
  cases b with
  | low => exact h.setSer ⟨hones, hacc⟩
  | high =>
    unfold serStop
    dsimp only
    split
    · next hlt => exact h.setSer ⟨hlt, hones, hacc⟩
    · exact emitByte_blockInv h hones hacc

theorem serBit_blockInv {s : State} (b : Level) (h : BlockInv s) : BlockInv (serBit b s).1 := by
  unfold serBit
  split
  · exact serWait_blockInv b h
  · next hs => exact serData_blockInv b h hs
  · next hs => exact serParity_blockInv b h hs
  · next hs => exact serStop_blockInv b h hs

end Sys2Proof.Machine
end

section
/-! The frame attempt and the events (R195, R211, R231) keep the invariant. -/

namespace Sys2Proof.Machine

theorem serRun_blockInv {s : State} (b : Level) (k : Nat) (h : BlockInv s) : BlockInv (serRun b k s).1 := by
  induction k generalizing s with
  | zero => exact h
  | succ k ih =>
    have hb := serBit_blockInv b h
    unfold serRun
    split <;> rename_i heq <;> rw [heq] at hb
    · exact hb
    · exact ih hb
    · exact ih hb

theorem serEntries_blockInv {s : State} (es : List ClassifiedBit) (h : BlockInv s) : BlockInv (serEntries es s).1 := by
  induction es generalizing s with
  | nil => exact h
  | cons e es ih =>
    have hr := serRun_blockInv (levelOf e.val) e.len.toNat h
    unfold serEntries
    split <;> rename_i heq <;> rw [heq] at hr
    · exact hr.raise .ferr e.start
    · exact ih hr

theorem serStart_blockInv {s : State} (x : Index) (h : BlockInv s) : BlockInv (serStart x s) :=
  (h.setSer (r := Serial.clear) ⟨Nat.zero_le _, Nat.two_pow_pos _⟩).setBb ⟨Nat.zero_le _, nofun, nofun⟩

theorem serFinish_blockInv {s : State} (h : BlockInv s) : BlockInv (serFinish s) := by
  unfold serFinish
  split
  · exact h
  · exact h.raise .partialChar s.bb.start

theorem serFrame_blockInv {s : State} (ds : Nat) (x : Index) (h : BlockInv s) : BlockInv (serFrame ds x s).1 := by
  have he := serEntries_blockInv (s.fb.drop ds) (serStart_blockInv x h)
  unfold serFrame
  split <;> rename_i heq <;> rw [heq] at he
  · exact he
  · exact serFinish_blockInv he

/-- A frame of more than three bytes fits the FRAME record: `BYTE_CAP` and the size of `FMAP` bound it (R60, R112). -/
theorem frameEvent_wf {s : State} (h : BlockInv s) (hlen : 3 < s.bb.bytes.length) : (frameEvent s).wf := by
  obtain ⟨hcap, -, -⟩ := h.bb
  obtain ⟨-, -, -, hbyteCap, -⟩ := Config.legal_buffers h.legal
  obtain ⟨-, -, -, -, hmap, -⟩ := Config.legal_tables h.legal
  have hbytes : s.bb.bytes.length < 2 ^ 16 := by omega
  refine ⟨hlen, hbytes, ?_, fun hk => if_neg hk⟩
  unfold frameEvent
  dsimp only
  split
  · simpa using Nat.lt_succ_of_le hmap
  · simp

theorem reportFrame_blockInv {s : State} (h : BlockInv s) (hlen : 3 < s.bb.bytes.length) :
    BlockInv (reportFrame s).1 := by
  have he := frameEvent_wf h hlen
  unfold reportFrame
  split
  · split
    · exact (h.raise .malformed s.bb.start).emit he
    · exact h.raise .malformed s.bb.start
  · exact h.emit he

theorem appDecode_blockInv {s : State} (abort : Bool) (h : BlockInv s) : BlockInv (appDecode abort s).1 := by
  unfold appDecode State.bbLen
  split
  · exact h
  · split
    · exact h.raise .short s.bb.start
    · next hlen => exact reportFrame_blockInv h (by omega)

theorem gapAttempt_blockInv {s : State} (h : BlockInv s) : BlockInv (gapAttempt s).1 := by
  unfold gapAttempt
  split
  · exact appDecode_blockInv _ (serFrame_blockInv _ _ h)
  · dsimp only
    split
    · exact h.raise .noSync (startAt s.fb 0)
    · exact h

theorem syncGap_blockInv {s : State} (h : BlockInv s) : BlockInv (syncGap s).1 :=
  (gapAttempt_blockInv h).setFb ⟨Nat.zero_le _, nofun, nofun⟩

end Sys2Proof.Machine
end

section
/-! The whole step (R250) and every operation keep the invariant. -/

namespace Sys2Proof.Machine

theorem afterRun_blockInv {s : State} (r : Option Run) (h : BlockInv s) : BlockInv (afterRun r s) := by
  cases r with
  | none => exact h
  | some r =>
    have hc := clsRun_blockInv r h
    unfold afterRun afterClassify
    dsimp only
    split
    · next hbit => exact syncAppend_blockInv hc (clsRun_bit h.legal hbit)
    · exact syncGap_blockInv hc
    · exact hc

theorem pipelineStep_blockInv {s : State} (i q : Byte) (h : BlockInv s) : BlockInv (pipelineStep i q s) :=
  afterRun_blockInv _ (runSymbol_blockInv _ (demodSample_blockInv i q h))

theorem inByte_blockInv {s : State} (b : Byte) (h : BlockInv s) : BlockInv (inByte b s) := by
  unfold inByte
  split
  · exact pipelineStep_blockInv s.diHold b (h.setDi false s.diHold)
  · exact h.setDi true b

/-- The operands of SW.INIT in range (R114 (d), (e)). -/
theorem swInit_operands {sel : WindowSel} {n : BitVec 16} {v : BitVec 18} (h : (Instr.swInit sel n v).defect = none) :
    (1 ≤ n.toNat ∧ n.toNat ≤ 65535) ∧ sel.lo ≤ v.toInt ∧ v.toInt ≤ sel.hi := by
  simp only [Instr.defect] at h
  split at h
  · cases h
  · next hn =>
    split at h
    · next hv => exact ⟨by bv_omega, WindowSel.admits_iff.mp hv⟩
    · cases h

/-- The operand of SW.UPDATE in range (R114 (e)). -/
theorem swUpdate_operands {sel : WindowSel} {v : BitVec 18} (h : (Instr.swUpdate sel v).defect = none) :
    sel.lo ≤ v.toInt ∧ v.toInt ≤ sel.hi := by
  simp only [Instr.defect] at h
  split at h
  · next hv => exact WindowSel.admits_iff.mp hv
  · cases h

/-- The operands of SYNC.APPEND in range (R114 (c)). -/
theorem syncAppend_operands {val : Symbol} {len : Length} {start : Index}
    (h : (Instr.syncAppend val len start).defect = none) : val ≠ .zero ∧ len ≠ 0 := by
  simp only [Instr.defect] at h
  split at h
  · cases h
  · next hv => exact not_or.mp hv

theorem effect_blockInv {i : Instr} {s : State} (h : BlockInv s) (hd : i.defect = none)
    (hr : i = .reset → s.cfgIn.legal = true) : BlockInv (effect i s) := by
  cases i with
  | reset => exact (resetBlock_blockInv h (hr rfl)).setResult _
  | inByte b => exact (inByte_blockInv b h).setResult _
  | demodSample x q => exact (demodSample_blockInv x q h).setResult _
  | magLookup x q => exact h.setResult _
  | swInit sel n v =>
    obtain ⟨⟨h1, h2⟩, hv⟩ := swInit_operands hd
    exact (swInit_blockInv h h1 h2 hv).setResult _
  | swUpdate sel v => exact (swUpdate_blockInv h (swUpdate_operands hd)).setResult _
  | runSymbol sym idx => exact (runSymbol_blockInv _ h).setResult _
  | clsRun val len start => exact (clsRun_blockInv _ h).setResult _
  | syncAppend val len start => exact (syncAppend_blockInv h (syncAppend_operands hd)).setResult _
  | syncGap => exact (syncGap_blockInv h).setResult _
  | serFrame ds x => exact (serFrame_blockInv _ x h).setResult _
  | serBit b => exact (serBit_blockInv b h).setResult _
  | appDecode a => exact (appDecode_blockInv a h).setResult _
  | appDigit b => exact h.setResult _

theorem exec_blockInv {i : Instr} {s t : State} (h : BlockInv s) (hx : exec i s = .next t) : BlockInv t := by
  obtain ⟨rfl, hd, -, hr⟩ := exec_inv hx
  exact effect_blockInv h hd hr

/-- The state an operation finds differs from the one before the fetch only in what the host offers. -/
theorem fetch_blockInv {i : Instr} {s s' : State} (h : BlockInv s) (hf : fetch s = .run i s') : BlockInv s' := by
  obtain ⟨-, -, rfl⟩ | ⟨-, -, b, rest, -, -, rfl⟩ | ⟨-, -, rest, -, rfl⟩ := fetch_eq_run hf
  · exact h
  · exact h.setInBytes rest
  · exact h.setOpBits rest

/-- Settles O51: fetching keeps the invariant, and so does every operation, by one lemma per stage and one rule per
named update. -/
theorem invariantKeptByEveryStep : Obligations.InvariantKeptByEveryStep := by
  intro s t h hstep
  obtain ⟨i, s', hf, hx⟩ | ⟨-, -, rfl⟩ := step_eq_next.mp hstep
  · exact exec_blockInv (fetch_blockInv h hf) hx
  · exact h

end Sys2Proof.Machine
end

/-! ## Proofs: the streams (spec/20_memory.md) -/

section
/-! What is fetched and what the step then is, case by case of the input stream (R61, R252, R256). -/

namespace Sys2Proof.Machine

theorem step_of_fetch_run {s s' : State} {i : Instr} (h : fetch s = .run i s') : step s = exec i s' := by
  simp only [step, h]

theorem step_of_fetch_idle {s : State} (h : fetch s = .idle) : step s = idleStep s := by
  simp only [step, h]

/-- In the mode *run* with no stage test, what is fetched comes from `IN`. -/
theorem fetch_eq_fetchByte {s : State} (hr : s.rst = false) (hw : s.opBits = []) : fetch s = fetchByte s := by
  simp [fetch, hr, hw]

theorem fetchByte_cons {s : State} {b : Byte} {rest : List Byte} (h : s.inBytes = b :: rest) :
    fetchByte s = .run (.inByte b) (s.setInBytes rest) := by
  simp only [fetchByte, h]

theorem fetchByte_nil {s : State} (h : s.inBytes = []) : fetchByte s = .idle := by
  simp only [fetchByte, h]

/-- Settles O47: a byte offered is fetched for IN.BYTE; with none offered the step is the idle one. -/
theorem stepTakesNextByte : Obligations.StepTakesNextByte := by
  intro s hr hw
  have hf : fetch s = fetchByte s := fetch_eq_fetchByte hr hw
  exact ⟨fun _ _ h => step_of_fetch_run (hf.trans (fetchByte_cons h)),
    fun h => step_of_fetch_idle (hf.trans (fetchByte_nil h))⟩

end Sys2Proof.Machine
end

section
/-! No operation reads the outputs (R62, R113): its effect commutes with a change of what lies outside the pipeline. -/

namespace Sys2Proof.Machine

theorem setResult_within (o : Outer) (s : State) (r : OpResult) :
    (s.within o).setResult r = (s.setResult r).within { o with result := r } := rfl

theorem setWindow_within (o : Outer) (s : State) (sel : WindowSel) (w : Window) :
    (s.within o).setWindow sel w = (s.setWindow sel w).within o := by
  cases sel <;> rfl

theorem window_within (o : Outer) (s : State) (sel : WindowSel) : (s.within o).window sel = s.window sel := by
  cases sel <;> rfl

theorem swInit_within (o : Outer) (sel : WindowSel) (n : Nat) (v : Int) (s : State) :
    swInit sel n v (s.within o) = (swInit sel n v s).within o :=
  setWindow_within o s sel _

theorem swUpdate_within (o : Outer) (sel : WindowSel) (v : Int) (s : State) :
    swUpdate sel v (s.within o) = (swUpdate sel v s).within o := by
  rw [swUpdate, window_within, setWindow_within, swUpdate]

theorem inByte_within (o : Outer) (b : Byte) (s : State) : inByte b (s.within o) = (inByte b s).within o := by
  have hphase : (s.within o).diPhase = s.diPhase := rfl
  unfold inByte
  rw [hphase]
  split
  · exact pipelineStep_within o s.diHold b (s.setDi false s.diHold)
  · rfl

theorem resetBlock_within (o : Outer) (s : State) : resetBlock (s.within o) = (resetBlock s).within o := rfl

/-- The effect of an operation is the same inside any outside, but for the result record, which is its own. -/
theorem effect_within (o : Outer) (i : Instr) (s : State) :
    effect i (s.within o) = (effect i s).within { o with result := (effect i s).result } := by
  cases i with
  | reset => simp [effect, resetBlock_within, setResult_within]
  | inByte b => simp [effect, inByte_within, setResult_within]
  | demodSample x q => simp [effect, demodSample_within, setResult_within]
  | magLookup x q => rfl
  | swInit sel n v => simp [effect, swInit_within, setResult_within]
  | swUpdate sel v => simp [effect, swUpdate_within, window_within, setResult_within]
  | runSymbol sym idx => simp [effect, runSymbol_within, setResult_within]
  | clsRun val len start => simp [effect, clsRun_within, setResult_within]
  | syncAppend val len start => simp [effect, syncAppend_within, setResult_within]
  | syncGap => simp [effect, syncGap_within, setResult_within]
  | serFrame ds x => simp [effect, serFrame_within, setResult_within]
  | serBit b => simp [effect, serBit_within, setResult_within]
  | appDecode a => simp [effect, appDecode_within, setResult_within]
  | appDigit b => rfl

/-- An operation completes with its effect when its operands are in range and the configuration it runs under is legal:
for RESET the inputs, for every other operation the registers (R11). -/
theorem exec_eq_next_effect {i : Instr} {s : State} (hd : i.defect = none) (hl : i ≠ .reset → s.cfg.legal = true)
    (hr : i = .reset → s.cfgIn.legal = true) : exec i s = .next (effect i s) := by
  by_cases hi : i = .reset
  · subst hi
    exact execReset_eq_next.mpr ⟨hr rfl, rfl⟩
  · exact exec_next (exec_eq_complete_effect hi s) hd (hl hi)

/-- An operation that completes does so inside any outside, with the same effect. -/
theorem exec_within {i : Instr} {s t : State} (o : Outer) (h : exec i s = .next t) :
    exec i (s.within o) = .next (t.within { o with result := t.result }) := by
  obtain ⟨rfl, hd, hl, hr⟩ := exec_inv h
  rw [exec_eq_next_effect (s := s.within o) hd hl hr, effect_within]

/-- What lies outside the pipeline in `s`. -/
def State.outer (s : State) : Outer := ⟨s.inBytes, s.opBits, s.frames, s.diags, s.aux, s.result⟩

/-- A state is the one with no delivered events, put inside its own outside. -/
theorem noEvents_within_outer (s : State) :
    State.within { s with frames := [], diags := [], aux := [] } s.outer = s := by
  simp [State.within, State.outer]

/-- Inside the outside of `s`, a state with the streams `s` holds only appends its events to those of `s`. -/
theorem within_outer {s t : State} (hin : t.inBytes = s.inBytes) (hop : t.opBits = s.opBits) :
    t.within { s.outer with result := t.result } =
      { t with frames := s.frames ++ t.frames, diags := s.diags ++ t.diags, aux := s.aux ++ t.aux } := by
  simp only [State.within, State.outer, hin, hop]

/-- Settles O55: the state is the one without events inside its own outside, and the operation commutes with that. -/
theorem outputIsWriteOnly : Obligations.OutputIsWriteOnly := by
  intro i s t h
  obtain ⟨-, -, -, -, hin, hop⟩ := configurationIsFixed i _ t h
  calc exec i s = exec i (State.within { s with frames := [], diags := [], aux := [] } s.outer) := by
        rw [noEvents_within_outer]
    _ = .next (t.within { s.outer with result := t.result }) := exec_within s.outer h
    _ = _ := by rw [within_outer (s := s) hin hop]

end Sys2Proof.Machine
end

/-! ## Proofs: operation words and records (spec/30_encoding.md) -/

section
/-! Writing a word and reading it back (R91, R92, R114). -/

namespace Sys2Proof

/-- The operand fields written after an OPID are the fields that OPID reads. -/
theorem decodeBody_operandBits (i : Instr) (rest : List Bool) :
    decodeBody i.opid.toNat (operandBits i ++ rest) = checkedWord i rest := by
  cases i with
  | reset | syncGap => rfl
  | appDecode a => cases a <;> simp [Instr.opid, operandBits, decodeBody]
  | inByte _ | demodSample _ _ | magLookup _ _ | swInit _ _ _ | swUpdate _ _ | runSymbol _ _ | clsRun _ _ _
  | syncAppend _ _ _ | serFrame _ _ | serBit _ | appDigit _ => simp [Instr.opid, operandBits, decodeBody]

/-- Decoding an encoded operation checks the ranges of its operands, and nothing else can go wrong. -/
theorem decode_encode (i : Instr) (rest : List Bool) : decode (encode i ++ rest) = checkedWord i rest := by
  rw [encode, List.append_assoc, decode_opid, decodeBody_operandBits]

theorem checkedWord_eq_ok {i j : Instr} {l rest : List Bool} :
    checkedWord i l = .ok (j, rest) ↔ i.defect = none ∧ i = j ∧ l = rest := by
  unfold checkedWord
  split <;> simp [*]

/-- Settles O1: the fields written are the fields read, and a well-formed operation passes the check of its operands. -/
theorem decodeEncodeRoundTrip : Obligations.DecodeEncodeRoundTrip := by
  intro i rest hwf
  exact (decode_encode i rest).trans (checkedWord_eq_ok.mpr ⟨Machine.wellFormed_iff.mp hwf, rfl, rfl⟩)

end Sys2Proof
end

section
/-! What was read when a word decodes: the fields are at the front of the sequence, and writing gives them back. -/

namespace Sys2Proof

@[simp] theorem windowCode_windowOfCode (c : BitVec 1) : windowCode (windowOfCode c) = c := by
  revert c; decide

@[simp] theorem levelCode_levelOfCode (c : BitVec 1) : levelCode (levelOfCode c) = c := by
  revert c; decide

@[simp] theorem ofBool_ne_zero (c : BitVec 1) : BitVec.ofBool (c != 0#1) = c := by
  revert c; decide

theorem symbolCode_of_symbolOfCode {c : BitVec 2} {s : Symbol} (h : symbolOfCode c = some s) : symbolCode s = c := by
  revert c s; decide

theorem withField_eq_ok {n : Nat} {l : List Bool} {k : BitVec n → List Bool → Decoded} {r : Instr × List Bool}
    (h : withField n l k = .ok r) : ∃ x tail, l = fieldBits x ++ tail ∧ k x tail = .ok r := by
  unfold withField at h
  split at h
  · next v tail hv =>
    obtain ⟨hlt, rfl⟩ := readBits_inv hv
    exact ⟨BitVec.ofNat n v, tail, by rw [fieldBits, BitVec.toNat_ofNat, Nat.mod_eq_of_lt hlt], h⟩
  · cases h

theorem withSymbol_eq_ok {l : List Bool} {k : Symbol → List Bool → Decoded} {r : Instr × List Bool}
    (h : withSymbol l k = .ok r) : ∃ s tail, l = fieldBits (symbolCode s) ++ tail ∧ k s tail = .ok r := by
  obtain ⟨c, tail, rfl, hc⟩ := withField_eq_ok h
  split at hc
  · next s hs => exact ⟨s, tail, by rw [symbolCode_of_symbolOfCode hs], hc⟩
  · cases hc

/-- Where the operand fields of an OPID decode, they are those of a well-formed operation of that OPID. -/
theorem decodeBody_eq_ok {op : Nat} {l rest : List Bool} {i : Instr} (h : decodeBody op l = .ok (i, rest)) :
    i.defect = none ∧ i.opid.toNat = op ∧ operandBits i ++ rest = l := by
  unfold decodeBody at h
  split at h
  case h_1 | h_10 =>
    obtain ⟨hd, rfl, rfl⟩ := checkedWord_eq_ok.mp h
    exact ⟨hd, rfl, rfl⟩
  case h_2 | h_12 | h_13 | h_14 =>
    obtain ⟨x, l, rfl, hx⟩ := withField_eq_ok h
    obtain ⟨hd, rfl, rfl⟩ := checkedWord_eq_ok.mp hx
    exact ⟨hd, rfl, by simp [operandBits]⟩
  case h_3 | h_4 | h_6 | h_11 =>
    obtain ⟨x, l, rfl, hx⟩ := withField_eq_ok h
    obtain ⟨y, l, rfl, hy⟩ := withField_eq_ok hx
    obtain ⟨hd, rfl, rfl⟩ := checkedWord_eq_ok.mp hy
    exact ⟨hd, rfl, by simp [operandBits]⟩
  case h_5 =>
    obtain ⟨w, l, rfl, hw⟩ := withField_eq_ok h
    obtain ⟨n, l, rfl, hn⟩ := withField_eq_ok hw
    obtain ⟨v, l, rfl, hv⟩ := withField_eq_ok hn
    obtain ⟨hd, rfl, rfl⟩ := checkedWord_eq_ok.mp hv
    exact ⟨hd, rfl, by simp [operandBits]⟩
  case h_7 =>
    obtain ⟨s, l, rfl, hs⟩ := withSymbol_eq_ok h
    obtain ⟨x, l, rfl, hx⟩ := withField_eq_ok hs
    obtain ⟨hd, rfl, rfl⟩ := checkedWord_eq_ok.mp hx
    exact ⟨hd, rfl, by simp [operandBits]⟩
  case h_8 | h_9 =>
    obtain ⟨s, l, rfl, hs⟩ := withSymbol_eq_ok h
    obtain ⟨n, l, rfl, hn⟩ := withField_eq_ok hs
    obtain ⟨x, l, rfl, hx⟩ := withField_eq_ok hn
    obtain ⟨hd, rfl, rfl⟩ := checkedWord_eq_ok.mp hx
    exact ⟨hd, rfl, by simp [operandBits]⟩
  case h_15 => cases h

theorem decode_eq_ok {l rest : List Bool} {i : Instr} (h : decode l = .ok (i, rest)) :
    i.defect = none ∧ encode i ++ rest = l := by
  unfold decode at h
  split at h
  · next op body hop =>
    obtain ⟨hd, rfl, rfl⟩ := decodeBody_eq_ok h
    exact ⟨hd, (List.append_assoc ..).trans (readBits_inv hop).2⟩
  · cases h

/-- Settles O2: the OPID and each field read stand at the front of the sequence, as the encoder writes them. -/
theorem decodedWordsReencode : Obligations.DecodedWordsReencode := by
  intro l rest i h
  obtain ⟨hd, hl⟩ := decode_eq_ok h
  exact ⟨Machine.wellFormed_iff.mpr hd, hl⟩

end Sys2Proof
end

section
/-! The words that R114 (a) to (e) call invalid. -/

namespace Sys2Proof

theorem withSymbol_reserved (rest : List Bool) (k : Symbol → List Bool → Decoded) :
    withSymbol (fieldBits 0b10#2 ++ rest) k = .error .reservedSymbol := by
  rw [withSymbol, withField_fieldBits]
  rfl

/-- The word of an operation with a defect is rejected under that defect. -/
theorem decode_encode_of_defect {i : Instr} {d : Defect} (h : i.defect = some d) (rest : List Bool) :
    decode (encode i ++ rest) = .error (.operand d) := by
  rw [decode_encode, checkedWord, h]

/-- The values outside a window's range, window by window (R114 (e)). -/
theorem WindowSel.not_admits {w : WindowSel} {v : Int}
    (h : (w = .power ∧ (v < 0 ∨ 5 < v)) ∨ (w = .phase ∧ (v < -32640 ∨ 32640 < v))) : ¬ w.admits v = true := by
  rw [WindowSel.admits_iff]
  obtain ⟨rfl, hv⟩ | ⟨rfl, hv⟩ := h <;> simp only [WindowSel.lo, WindowSel.hi] <;> omega

/-- Settles O3: the reserved codes have no meaning, and the operand checks give each other word its reason. -/
theorem invalidWordsRejected : Obligations.InvalidWordsRejected := by
  refine ⟨?opid, ?symbol, ?classified, ?size, ?initValue, ?updateValue⟩
  case opid =>
    intro op hop rest
    rw [decode_opid]
    obtain rfl | rfl : op = 14#4 ∨ op = 15#4 := by simpa using hop
    · rfl
    · rfl
  case symbol =>
    intro op hop rest
    rw [decode_opid]
    obtain rfl | rfl | rfl : op = 6#4 ∨ op = 7#4 ∨ op = 8#4 := by simpa using hop
    all_goals exact withSymbol_reserved rest _
  case classified =>
    intro val len start rest h
    have hd : (Instr.syncAppend val len start).defect = some .notClassifiedBit := if_pos h
    exact decode_encode_of_defect hd rest
  case size =>
    intro w v rest
    have hd : (Instr.swInit w 0 v).defect = some .windowSizeZero := rfl
    exact decode_encode_of_defect hd rest
  case initValue =>
    intro w n v rest hn hv
    have hd : (Instr.swInit w n v).defect = some .windowValueRange :=
      (if_neg hn).trans (if_neg (WindowSel.not_admits hv))
    exact decode_encode_of_defect hd rest
  case updateValue =>
    intro w v rest hv
    have hd : (Instr.swUpdate w v).defect = some .windowValueRange := if_neg (WindowSel.not_admits hv)
    exact decode_encode_of_defect hd rest

/-- Settles O4: each word is read bit by bit at its width. -/
theorem specWordsDecode : Obligations.SpecWordsDecode :=
  ⟨rfl, rfl, rfl, rfl, rfl, rfl, rfl, rfl, rfl⟩

end Sys2Proof
end

section
/-! Centering (R94). -/

namespace Sys2Proof.Machine

theorem centered_eq (b : Byte) : centered b = (b.toNat : Int) - 128 := rfl

/-- Inverting the top bit of a byte adds 128 modulo 256. -/
theorem xor_signBit (b : Byte) : b ^^^ 0x80 = b + 0x80 := by
  revert b; decide

theorem xor_signBit_toInt (b : Byte) : (b ^^^ 0x80).toInt = (b.toNat : Int) - 128 := by
  rw [xor_signBit, BitVec.toInt_eq_toNat_cond, BitVec.toNat_add]
  have hb : b.toNat < 256 := b.isLt
  have hk : (0x80 : Byte).toNat = 128 := rfl
  split <;> omega

/-- Settles O12: inverting the top bit adds 128 modulo 256, and reading the sum as two's complement subtracts 128. -/
theorem centeringIsSignExtendedXor : Obligations.CenteringIsSignExtendedXor := by
  intro b
  exact ⟨centered_eq b, (centered_eq b).trans (xor_signBit_toInt b).symm⟩

end Sys2Proof.Machine
end

section
/-! What a step makes of the words of a stage test (R90, R91, R114; log entry 3), and that it never stops on the pins. -/

namespace Sys2Proof.Machine

/-- In the mode *reset* the operation is RESET, in the state as it stands. -/
theorem fetch_eq_reset {s : State} (hr : s.rst = true) : fetch s = .run .reset s := by
  simp [fetch, hr]

/-- In the mode *run* the words of a stage test go first. -/
theorem fetch_eq_fetchWord {s : State} (hr : s.rst = false) (hw : s.opBits ≠ []) : fetch s = fetchWord s := by
  simp [fetch, hr, hw]

theorem fetchWord_ok {s : State} {i : Instr} {rest : List Bool} (h : decode s.opBits = .ok (i, rest)) :
    fetchWord s = .run i (s.setOpBits rest) := by
  simp only [fetchWord, h]

theorem fetchWord_error {s : State} {e : DecodeError} (h : decode s.opBits = .error e) :
    fetchWord s = .invalid e := by
  simp only [fetchWord, h]

theorem step_of_fetch_invalid {s : State} {e : DecodeError} (h : fetch s = .invalid e) :
    step s = .refused (.invalidWord e) := by
  simp only [step, h]

/-- Settles O45: bits that decode are not empty, so they are fetched before any byte. -/
theorem stepRunsDecodedWord : Obligations.StepRunsDecodedWord := by
  intro s i rest hr hd
  have hw : s.opBits ≠ [] := by
    intro h0
    rw [h0] at hd
    cases hd
  exact step_of_fetch_run ((fetch_eq_fetchWord hr hw).trans (fetchWord_ok hd))

/-- Settles O46: the word is fetched first, and the fetch gives the decoder's reason. -/
theorem stepRefusesInvalidWord : Obligations.StepRefusesInvalidWord := by
  intro s e hr hw hd
  exact step_of_fetch_invalid ((fetch_eq_fetchWord hr hw).trans (fetchWord_error hd))

/-- Settles O49: RESET completes under legal inputs, IN.BYTE under a legal configuration, and so does the idle step. -/
theorem runningBlockNeverStops : Obligations.RunningBlockNeverStops := by
  intro s hl hin hw
  cases hr : s.rst with
  | true => exact ⟨_, (step_of_fetch_run (fetch_eq_reset hr)).trans (execReset_eq_next.mpr ⟨hin, rfl⟩)⟩
  | false =>
    obtain ⟨hbyte, hnone⟩ := stepTakesNextByte s hr hw
    cases hb : s.inBytes with
    | cons b rest => exact ⟨_, (hbyte b rest hb).trans (exec_next rfl rfl hl)⟩
    | nil => exact ⟨s, (hnone hb).trans (if_pos hl)⟩

end Sys2Proof.Machine
end

section
/-! The widths of the records (R97 to R99, R101, R111 to R113, R118). -/

namespace Sys2Proof.Machine

theorem fieldValueBits_length (v : FieldValue) : (fieldValueBits v).length = 16 := by
  simp [fieldValueBits]

/-- A list of entries of one width `w` has `w` bits per entry. -/
theorem length_flatten_map_of_width {α : Type} {f : α → List Bool} {w : Nat} (h : ∀ a, (f a).length = w)
    (l : List α) : (l.map f).flatten.length = w * l.length := by
  simp [List.length_flatten, Function.comp_def, h, Nat.mul_comm]

/-- The fixed part of a FRAME record has 93 bits; each byte adds 8 and each field value 16 (R112). -/
theorem frameBits_length (e : FrameEvent) :
    (frameBits e).length = 93 + 8 * e.bytes.length + 16 * e.fields.length := by
  have hbytes := length_flatten_map_of_width (f := fieldBits) (fun b : Byte => fieldBits_length b) e.bytes
  have hfields := length_flatten_map_of_width fieldValueBits_length e.fields
  simp only [frameBits, List.length_append, fieldBits_length, bitsOfNat_length, List.length_cons, List.length_nil,
    hbytes, hfields]
  omega

/-- Settles O57: the width of a record is the sum of the widths of its fields. -/
theorem recordWidths : Obligations.RecordWidths := by
  refine ⟨fun r => ?_, fun r => ?_, fun e => ?_, fun p => ?_, fun e => ?_, fun a => ?_, frameBits_length⟩
  · simp [symbolRecBits]
  · simp [runBits]
  · simp [classifiedBitBits]
  · simp [patElemBits]
  · simp [diagBits]
  · simp [auxBits]

end Sys2Proof.Machine
end

/-! ## Proofs: the magnitude table (spec/40_magnitude_lut.md) -/

section
/-! The table in integers: the ranges of `m2` (R132), its laws (R133) and MAG.LOOKUP (R131). -/

namespace Sys2Proof.Machine

/-- Negating a raw byte other than 0 negates its centered value; raw 0 is centered -128, which has no partner. -/
theorem centered_neg {b : Byte} (h : b ≠ 0) : centered (-b) = -centered b := by
  have hlt := b.isLt
  have hpos : b.toNat ≠ 0 := fun h0 => h (BitVec.eq_of_toNat_eq h0)
  simp only [centered_eq, BitVec.toNat_neg]
  omega

theorem magSquared_eq_sq (i q : Byte) : magSquared i q = centered i ^ 2 + centered q ^ 2 := by
  simp only [magSquared, sq]

theorem magSquared_comm (i q : Byte) : magSquared i q = magSquared q i := Int.add_comm _ _

theorem magSquared_neg_left {i : Byte} (q : Byte) (h : i ≠ 0) : magSquared (-i) q = magSquared i q := by
  rw [magSquared_eq_sq, magSquared_eq_sq, centered_neg h, neg_sq]

theorem magSquared_neg_right (i : Byte) {q : Byte} (h : q ≠ 0) : magSquared i (-q) = magSquared i q := by
  rw [magSquared_comm, magSquared_neg_left i h, magSquared_comm]

/-- The largest value is that of the corner (-128, -128). -/
theorem magSquared_le (i q : Byte) : magSquared i q ≤ 32768 :=
  Int.add_le_add (centered_mul_bounds i i).2 (centered_mul_bounds q q).2

/-- The ranges of R132: the count is a sum of one 0 or 1 per threshold, and each range fixes all five. -/
theorem magOfSquared_eq_ite (m2 : Int) : magOfSquared m2 =
    if m2 ≤ 7 then 0 else if m2 ≤ 54 then 1 else if m2 ≤ 403 then 2 else if m2 ≤ 2980 then 3
    else if m2 ≤ 22026 then 4 else 5 := by
  simp only [magOfSquared, magThresholds, ← List.countP_eq_length_filter, List.countP_cons, List.countP_nil,
    decide_eq_true_eq]
  grind

/-- A larger value passes every threshold that a smaller one passes. -/
theorem magOfSquared_mono {m m' : Int} (h : m ≤ m') : magOfSquared m ≤ magOfSquared m' := by
  refine (List.monotone_filter_right magThresholds fun t ht => ?_).length_le
  simp only [decide_eq_true_eq] at ht ⊢
  exact ht.trans h

/-- Settles O6: the entry read is the magnitude of `m2`, by its ranges. -/
theorem magLookupGivesRange : Obligations.MagLookupGivesRange := by
  intro i q s hl m2
  have hm : magLookup i q = _ := (lut_append i q).trans (magOfSquared_eq_ite _)
  rw [exec_next (s' := s.setResult (.magnitude (magLookup i q))) rfl rfl hl, hm, magSquared_eq_sq]
  rfl

/-- Settles O7: the entry depends on `m2` alone and is monotone in it. -/
theorem magnitudeTableLaws : Obligations.MagnitudeTableLaws := by
  refine ⟨fun i q hi hq => ⟨?_, ?_, ?_⟩, fun i hi => centered_neg hi, fun i q => ?_, fun i q i' q' h => ?_,
    fun a => magOfSquared_le _⟩
  · rw [lut_append, lut_append, magSquared_neg_left q hi]
  · rw [lut_append, lut_append, magSquared_neg_right i hq]
  · rw [lut_append, lut_append, magSquared_neg_left _ hi, magSquared_neg_right i hq]
  · rw [lut_append, lut_append, magSquared_comm]
  · rw [lut_append, lut_append]
    rw [← magSquared_eq_sq, ← magSquared_eq_sq] at h
    exact magOfSquared_mono h

end Sys2Proof.Machine
end

section
/-! The table against its definition with real numbers (R130): for `m > 0`, `⌊ln √m⌋ = k` exactly when
`e^(2k) ≤ m < e^(2k+2)`; for an integer `m` these bounds are ceilings of powers of `e`, and those at `k = 1 .. 5` are the
thresholds (R132, its reason). -/

namespace Sys2Proof.Machine

theorem floor_log_sqrt_eq {m lo hi : ℤ} (hm : 0 < m) (k : ℕ) (hlo : ⌈Real.exp 1 ^ (2 * k)⌉ = lo)
    (hhi : ⌈Real.exp 1 ^ (2 * (k + 1))⌉ = hi) (h1 : lo ≤ m) (h2 : m < hi) : ⌊Real.log (Real.sqrt m)⌋ = k := by
  have hm' : (0 : ℝ) < m := Int.cast_pos.mpr hm
  rw [← hlo, Int.ceil_le, Real.exp_one_pow, ← Real.le_log_iff_exp_le hm'] at h1
  rw [← hhi, Int.lt_ceil, Real.exp_one_pow, ← Real.log_lt_iff_lt_exp hm'] at h2
  rw [Int.floor_eq_iff, Real.log_sqrt hm'.le]
  push_cast at h1 h2 ⊢
  constructor <;> linarith

/-- A ceiling of a power of `e`, from the nine digits of `e` that Mathlib has. -/
theorem ceil_exp_one_pow {n : ℕ} {t : ℤ} (hn : n ≠ 0) (hlo : (t : ℝ) - 1 < 2.7182818283 ^ n)
    (hhi : (2.7182818286 : ℝ) ^ n ≤ t) : ⌈Real.exp 1 ^ n⌉ = t := by
  rw [Int.ceil_eq_iff]
  constructor
  · exact hlo.trans (pow_lt_pow_left₀ Real.exp_one_gt_d9 (by norm_num) hn)
  · exact (pow_le_pow_left₀ (Real.exp_pos 1).le Real.exp_one_lt_d9.le n).trans hhi

/-- The thresholds of R132 between `e^0` and `e^12`, which lies above the largest `m2` (`magSquared_le`). -/
theorem ceil_exp_one_pow_thresholds :
    ⌈Real.exp 1 ^ 0⌉ = 1 ∧ ⌈Real.exp 1 ^ 2⌉ = 8 ∧ ⌈Real.exp 1 ^ 4⌉ = 55 ∧ ⌈Real.exp 1 ^ 6⌉ = 404 ∧
    ⌈Real.exp 1 ^ 8⌉ = 2981 ∧ ⌈Real.exp 1 ^ 10⌉ = 22027 ∧ ⌈Real.exp 1 ^ 12⌉ = 162755 := by
  refine ⟨by rw [pow_zero, Int.ceil_one], ?_, ?_, ?_, ?_, ?_, ?_⟩ <;> apply ceil_exp_one_pow <;> norm_num

/-- The integer form is the floored logarithm wherever the magnitude exceeds 1.0: both by the ranges of `m2`. -/
theorem magOfSquared_eq_floor_log {m : ℤ} (h1 : 1 < m) (h2 : m ≤ 32768) :
    (magOfSquared m : ℤ) = ⌊Real.log (Real.sqrt m)⌋ := by
  obtain ⟨e0, e2, e4, e6, e8, e10, e12⟩ := ceil_exp_one_pow_thresholds
  have hm : 0 < m := by omega
  rw [magOfSquared_eq_ite]
  split_ifs
  · exact (floor_log_sqrt_eq hm 0 e0 e2 (by omega) (by omega)).symm
  · exact (floor_log_sqrt_eq hm 1 e2 e4 (by omega) (by omega)).symm
  · exact (floor_log_sqrt_eq hm 2 e4 e6 (by omega) (by omega)).symm
  · exact (floor_log_sqrt_eq hm 3 e6 e8 (by omega) (by omega)).symm
  · exact (floor_log_sqrt_eq hm 4 e8 e10 (by omega) (by omega)).symm
  · exact (floor_log_sqrt_eq hm 5 e10 e12 (by omega) (by omega)).symm

theorem one_lt_sqrt_intCast {m : ℤ} : 1 < Real.sqrt m ↔ 1 < m := by
  rw [Real.lt_sqrt zero_le_one, one_pow]
  exact_mod_cast Iff.rfl

/-- Settles O5: above magnitude 1.0 by `magOfSquared_eq_floor_log`; otherwise `m2 ≤ 1` passes no threshold. -/
theorem magnitudeTableIsFlooredLog : Obligations.MagnitudeTableIsFlooredLog := by
  intro i q mag
  have hmag : mag = Real.sqrt (magSquared i q : ℤ) := by
    rw [magSquared_eq_sq]
    push_cast
    rfl
  rw [hmag, one_lt_sqrt_intCast, lut_append]
  refine ⟨fun h => magOfSquared_eq_floor_log h (magSquared_le i q), fun h => ?_⟩
  rw [magOfSquared_eq_ite, if_pos (by omega)]

end Sys2Proof.Machine
end

/-! ## Proofs: the sliding window (spec/41_sliding_window.md) -/

section
/-! The window as the list of its most recent inputs: an update drops the oldest and appends the new one (R142), so after
the updates `xs` the window holds the end of the initial values followed by `xs` (R144 (a), (b)). -/

namespace Sys2Proof.Machine

/-- The entries of a window, from the oldest, at `pos`, to the most recent. -/
def Window.recent (w : Window) : List Int := w.buf.rotate w.pos

theorem Window.sum_recent (w : Window) : w.recent.sum = w.buf.sum :=
  (List.rotate_perm w.buf w.pos).sum_eq

theorem Window.recent_init (n : Nat) (v : Int) : (Window.init n v).recent = List.replicate n v :=
  List.rotate_zero _

/-- Split at the position, the buffer is `a ++ old :: b`; its entries by age are `old :: b ++ a` before an update and
`b ++ a ++ [v]` after it. -/
theorem Window.recent_update {w : Window} (h : w.pos < w.size) :
    ∃ l, w.recent = w.oldest :: l ∧ ∀ v, (w.update v).recent = l ++ [v] := by
  have h' : w.pos < w.buf.length := h
  have hlen : (w.buf.take w.pos).length = w.pos := List.length_take_of_le h'.le
  refine ⟨w.buf.drop (w.pos + 1) ++ w.buf.take w.pos, ?_, fun v => ?_⟩
  · rw [Window.recent, List.rotate_eq_drop_append_take h'.le, List.drop_eq_getElem_cons h', List.cons_append,
      Window.oldest, List.getD_eq_getElem _ _ h']
  · have hset : w.buf.set w.pos v = (w.buf.take w.pos ++ [v]) ++ w.buf.drop (w.pos + 1) := by
      rw [List.set_eq_take_append_cons_drop, if_pos h', List.append_assoc, List.singleton_append]
    have hrot : (w.update v).recent = (w.buf.set w.pos v).rotate (w.pos + 1) := by
      rw [← List.rotate_mod _ (w.pos + 1), List.length_set]
      rfl
    have hsucc : w.pos + 1 = (w.buf.take w.pos ++ [v]).length := by simp [hlen]
    rw [hrot, hset, hsucc, List.rotate_append_length_eq, List.append_assoc]

theorem Window.recent_foldl_update {w : Window} (xs : List Int) (h : w.pos < w.size) :
    (xs.foldl Window.update w).recent = (w.recent ++ xs).drop xs.length := by
  induction xs generalizing w with
  | nil => simp
  | cons x xs ih =>
    obtain ⟨l, hw, hu⟩ := Window.recent_update h
    rw [List.foldl_cons, ih (Window.pos_update x (Nat.one_le_of_lt h)), hu, hw, List.cons_append, List.length_cons,
      List.drop_succ_cons, List.append_assoc, List.singleton_append]

/-- The clauses of `Window.wf` that hold of every window ever updated, whatever the ranges of its inputs (R26). -/
def Window.Exact (w : Window) : Prop :=
  w.pos < w.size ∧ w.sum = w.buf.sum ∧ w.avg = w.sum.tdiv w.size

theorem Window.init_exact {n : Nat} (v : Int) (h : 1 ≤ n) : (Window.init n v).Exact := by
  have hn : (n : Int) ≠ 0 := by omega
  rw [Window.Exact, Window.size_init]
  exact ⟨h, by simp [Window.init], (Int.mul_tdiv_cancel_left v hn).symm⟩

theorem Window.update_exact {w : Window} (v : Int) (h : w.Exact) : (w.update v).Exact := by
  obtain ⟨hpos, hsum, -⟩ := h
  refine ⟨Window.pos_update v (Nat.one_le_of_lt hpos), ?_, by rw [Window.size_update]; rfl⟩
  calc (w.update v).sum = w.buf.sum - w.oldest + v := by rw [← hsum]; rfl
    _ = (w.update v).buf.sum := (Window.sum_set_pos v hpos).symm

theorem Window.foldl_update_exact {w : Window} (xs : List Int) (h : w.Exact) : (xs.foldl Window.update w).Exact :=
  List.foldlRecOn xs Window.update h fun _ hw x _ => Window.update_exact x hw

@[simp] theorem Window.size_foldl_update (w : Window) (xs : List Int) :
    (xs.foldl Window.update w).size = w.size :=
  List.foldlRecOn xs Window.update (motive := fun u => u.size = w.size) rfl fun u hu x _ =>
    (Window.size_update u x).trans hu

/-- The sum after the updates `xs`: the last `n` of the `n` initial values followed by `xs`. -/
theorem Window.sum_foldl_update_init {n : Nat} (v : Int) (xs : List Int) (h : 1 ≤ n) :
    (xs.foldl Window.update (Window.init n v)).sum = ((List.replicate n v ++ xs).drop xs.length).sum := by
  have hi := Window.init_exact v h
  obtain ⟨-, hsum, -⟩ := Window.foldl_update_exact xs hi
  rw [hsum, ← Window.sum_recent, Window.recent_foldl_update xs hi.1, Window.recent_init]

theorem Window.oldest_eq {w : Window} {old : Int} (h : w.buf[w.pos]? = some old) : w.oldest = old := by
  rw [Window.oldest, List.getD_eq_getElem?_getD, h, Option.getD_some]

/-- R144 (c). -/
theorem Window.sum_update_sub_prevSum (w : Window) (v : Int) :
    (w.update v).sum - (w.update v).prevSum = v - w.oldest := by
  show w.sum - w.oldest + v - w.sum = v - w.oldest
  omega

/-- Settles O10: the sum is that of the end of the initial values followed by the updates, which holds no initial value
after `n` updates and `n - k` of them after `k` updates. -/
theorem slidingWindowLaws : Obligations.SlidingWindowLaws := by
  intro n v xs hn w
  have hsum : w.sum = ((List.replicate n v ++ xs).drop xs.length).sum := Window.sum_foldl_update_init v xs hn
  have hsize : w.size = n := (Window.size_foldl_update _ xs).trans (Window.size_init n v)
  obtain ⟨hpos, htotal, havg⟩ := Window.foldl_update_exact xs (Window.init_exact v hn)
  refine ⟨fun h => ?_, fun h => ?_, fun x old ho => ?_, hsize, hsize ▸ hpos, htotal, hsize ▸ havg⟩
  · rw [hsum, List.drop_append, List.drop_replicate, List.length_replicate, Nat.sub_eq_zero_of_le h,
      List.replicate_zero, List.nil_append]
  · rw [hsum, List.drop_append_of_le_length (by simpa using h), List.drop_replicate, List.sum_append,
      List.sum_replicate, nsmul_eq_mul, Nat.cast_sub h, add_comm]
  · rw [Window.sum_update_sub_prevSum, Window.oldest_eq ho]

/-- A window of one entry holds the last input, or its initial value before the first. -/
theorem Window.sum_foldl_update_init_one (v : Int) (xs : List Int) :
    (xs.foldl Window.update (Window.init 1 v)).sum = xs.getLast?.getD v := by
  rw [Window.sum_foldl_update_init v xs le_rfl, List.replicate_one, List.singleton_append]
  cases xs using List.reverseRecOn with
  | nil => simp
  | append_singleton ys x => simp

/-- Settles O11: the sum is the last input, the average is the sum divided by 1, and the previous sum is the sum before. -/
theorem windowOfOnePassesThrough : Obligations.WindowOfOnePassesThrough := by
  intro v x xs w
  have hw : w.update x = (xs ++ [x]).foldl Window.update (Window.init 1 v) := by
    rw [List.foldl_append]
    rfl
  have hsum : (w.update x).sum = x := by
    rw [hw, Window.sum_foldl_update_init_one, List.getLast?_concat, Option.getD_some]
  have hsize : (w.update x).size = 1 := by rw [hw, Window.size_foldl_update, Window.size_init]
  obtain ⟨-, -, havg⟩ := Window.update_exact x (Window.foldl_update_exact xs (Window.init_exact v le_rfl))
  refine ⟨hsum, ?_, Window.sum_foldl_update_init_one v xs⟩
  calc (w.update x).avg = (w.update x).sum.tdiv (w.update x).size := havg
    _ = x := by rw [hsum, hsize, Nat.cast_one, Int.tdiv_one]

end Sys2Proof.Machine
end

section
/-! The two operations (R141, R142): the selected window and the result are written, nothing else. -/

namespace Sys2Proof.Machine

/-- What is written when a window operation completes, for each select. -/
theorem setWindow_setResult_frame {s t : State} {sel : WindowSel} {w : Window} {r : OpResult}
    (h : t = (s.setWindow sel w).setResult r) :
    t.window sel = w ∧ (sel = .power → t = { s with pw := t.pw, result := r }) ∧
      (sel = .phase → t = { s with fw := t.fw, result := r }) := by
  subst h
  cases sel with
  | power => exact ⟨rfl, fun _ => rfl, nofun⟩
  | phase => exact ⟨rfl, nofun, fun _ => rfl⟩

/-- Settles O8: the selected window becomes the initial one. -/
theorem swInitFillsWindow : Obligations.SwInitFillsWindow := by
  intro sel n v s hd hl
  refine ⟨effect (.swInit sel n v) s, exec_next rfl (wellFormed_iff.mp hd) hl, ?_⟩
  obtain ⟨hw, hframe⟩ := setWindow_setResult_frame (t := effect (.swInit sel n v) s) rfl
  rw [hw]
  exact ⟨rfl, rfl, rfl, rfl, rfl, hframe⟩

/-- Settles O9: the selected window is updated, and the value evicted is the entry at the position. -/
theorem swUpdateSlidesWindow : Obligations.SwUpdateSlidesWindow := by
  intro sel v s old hd hl ho
  refine ⟨effect (.swUpdate sel v) s, exec_next rfl (wellFormed_iff.mp hd) hl, ?_⟩
  obtain ⟨hw, hpw, hfw⟩ := setWindow_setResult_frame (t := effect (.swUpdate sel v) s) rfl
  rw [hw, ← Window.oldest_eq ho]
  refine ⟨rfl, rfl, rfl, rfl, rfl, ?_, ?_⟩
  · rintro rfl
    exact hpw rfl
  · rintro rfl
    exact hfw rfl

end Sys2Proof.Machine
end

/-! ## Proofs: the FM demodulator (spec/42_fm_demodulator.md) -/

section
/-! The cross product (R153) and the decision (R155 to R157). -/

namespace Sys2Proof.Machine

/-- Settles O13: the range from the bounds of centered values; each extreme by one point that reaches it. -/
theorem crossProductRange : Obligations.CrossProductRange :=
  ⟨fun pi pq i q => ⟨rfl, iqCrossProduct_bounds pi pq i q⟩, by decide, by decide⟩

/-- A sample at the centre, before or now, has no direction to turn from or to (R158 (a), (b)). -/
theorem iqCrossProduct_eq_zero {pi pq i q : Byte} (h : (pi = 128 ∧ pq = 128) ∨ (i = 128 ∧ q = 128)) :
    iqCrossProduct pi pq i q = 0 := by
  have h0 : centered 128#8 = 0 := by decide
  obtain ⟨rfl, rfl⟩ | ⟨rfl, rfl⟩ := h <;> simp [iqCrossProduct, h0]

theorem signSymbol_of_pos {x : Int} (h : 0 < x) : signSymbol x = .pos := if_pos h

theorem signSymbol_of_neg {x : Int} (h : x < 0) : signSymbol x = .neg := by
  rw [signSymbol, if_neg (by omega), if_pos h]

theorem signSymbol_zero : signSymbol 0 = .zero := rfl

theorem carrier_iff {s : State} : carrier s = true ↔ s.cfg.pwrThresh < s.pw.avg := decide_eq_true_iff

theorem decideSymbol_of_no_carrier {s : State} (h : s.pw.avg ≤ s.cfg.pwrThresh) : decideSymbol s = .zero :=
  if_neg fun hc => absurd (carrier_iff.mp hc) h.not_gt

/-- With a carrier the sign of the phase sum decides, if it has one (R156). -/
theorem decideSymbol_of_sum_ne_zero {s : State} (h : s.cfg.pwrThresh < s.pw.avg) (hsum : s.fw.sum ≠ 0) :
    decideSymbol s = signSymbol s.fw.sum := by
  rw [decideSymbol, if_pos (carrier_iff.mpr h), if_pos hsum]

/-- With a carrier and a zero sum the fallback decides (R157). -/
theorem decideSymbol_of_sum_eq_zero {s : State} (h : s.cfg.pwrThresh < s.pw.avg) (hsum : s.fw.sum = 0) :
    decideSymbol s = if s.cfg.zeroFallbackEn then signSymbol s.fw.prevSum else .zero := by
  rw [decideSymbol, if_pos (carrier_iff.mpr h), if_neg (not_not.mpr hsum)]

/-- Step 4 of R152 in the words of `DemodSampleDecides`: what a carrier, the sums and the fallback make of the symbol. -/
theorem decideSymbol_of_carrier {s : State} (hc : s.cfg.pwrThresh < s.pw.avg) :
    (0 < s.fw.sum → decideSymbol s = .pos) ∧ (s.fw.sum < 0 → decideSymbol s = .neg) ∧
    (s.fw.sum = 0 → s.cfg.zeroFallbackEn = false → decideSymbol s = .zero) ∧
    (s.fw.sum = 0 → s.cfg.zeroFallbackEn = true →
      (0 < s.fw.prevSum → decideSymbol s = .pos) ∧ (s.fw.prevSum < 0 → decideSymbol s = .neg) ∧
      (s.fw.prevSum = 0 → decideSymbol s = .zero)) := by
  refine ⟨fun hpos => ?_, fun hneg => ?_, fun h0 hoff => ?_, fun h0 hon => ?_⟩
  · rw [decideSymbol_of_sum_ne_zero hc hpos.ne', signSymbol_of_pos hpos]
  · rw [decideSymbol_of_sum_ne_zero hc hneg.ne, signSymbol_of_neg hneg]
  · rw [decideSymbol_of_sum_eq_zero hc h0, hoff, if_neg Bool.false_ne_true]
  · rw [decideSymbol_of_sum_eq_zero hc h0, hon, if_pos rfl]
    exact ⟨signSymbol_of_pos, signSymbol_of_neg, fun hp => hp ▸ signSymbol_zero⟩

end Sys2Proof.Machine
end

section
/-! DEMOD.SAMPLE (R152), and the cases of R158 that follow from its next state. -/

namespace Sys2Proof.Machine

theorem demodStore_eq (i q : Byte) (s : State) :
    demodStore i q s =
      let pw := s.pw.update (lut (i ++ q))
      let fw := s.fw.update (iqCrossProduct s.prevI s.prevQ i q)
      { s with pw := pw, fw := fw, prevI := i, prevQ := q, aux := s.aux ++ [⟨pw.avg, fw.avg⟩] } := rfl

theorem exec_demodSample {s : State} (i q : Byte) (hl : s.cfg.legal = true) :
    exec (.demodSample i q) s = .next { demodStore i q s with
      n := s.n + 1, result := .symbol ⟨decideSymbol (demodStore i q s), s.n⟩ } :=
  exec_next rfl rfl hl

/-- Settles O14: the symbol is the decision in the state after both window updates, by its cases. -/
theorem demodSampleDecides : Obligations.DemodSampleDecides := by
  intro i q s hl pw fw
  refine ⟨decideSymbol (demodStore i q s), ?_, decideSymbol_of_no_carrier (s := demodStore i q s),
    decideSymbol_of_carrier (s := demodStore i q s)⟩
  rw [exec_demodSample i q hl, demodStore_eq]

/-- Settles O15: the cross product fed is 0. -/
theorem centreSampleHasNoRotation : Obligations.CentreSampleHasNoRotation := by
  intro i q s hl h
  obtain ⟨sym, hx, -⟩ := demodSampleDecides i q s hl
  exact ⟨_, hx, congrArg s.fw.update (iqCrossProduct_eq_zero h)⟩

/-- Settles O16: the average of the updated power window is in `0 .. 5`. -/
theorem carrierThresholdExtremes : Obligations.CarrierThresholdExtremes := by
  intro i q s h
  obtain ⟨sym, hx, hzero, -⟩ := demodSampleDecides i q s h.legal
  obtain ⟨hlo, hhi⟩ := Window.avg_bounds (Window.update_wf h.pw (magLookup_bounds i q))
  refine ⟨_, sym, hx, rfl, fun h5 => hzero ?_, fun hm => carrier_iff.mpr ?_⟩
  · rw [h5]
    exact hhi
  · show s.cfg.pwrThresh < (s.pw.update (magLookup i q)).avg
    rw [hm]
    exact lt_of_lt_of_le (by decide : (-1 : Int) < 0) hlo

end Sys2Proof.Machine
end

section
/-! IN.BYTE (R150). No operation reads the result of the one before, so the stages of a step (R250) can be run as
operations of their own, each in the state the one before leaves. -/

namespace Sys2Proof.Machine

theorem inByte_first {s : State} (b : Byte) (h : s.diPhase = false) : inByte b s = s.setDi true b := by
  rw [inByte, h, if_neg Bool.false_ne_true]

theorem inByte_second {s : State} (b : Byte) (h : s.diPhase = true) :
    inByte b s = pipelineStep s.diHold b (s.setDi false s.diHold) := by
  rw [inByte, h, if_pos rfl]

/-- Settles O17: the byte is stored and the phase set. -/
theorem inByteHoldsFirst : Obligations.InByteHoldsFirst := by
  intro b s hl hp
  rw [exec_next (s' := effect (.inByte b) s) rfl rfl hl, effect, inByte_first b hp]
  rfl

/-- Writing the result is a change of what lies outside the pipeline, so `effect_within` applies. -/
theorem effect_setResult {i : Instr} (hi : i ≠ .reset) (s : State) (r : OpResult) :
    effect i (s.setResult r) = effect i s := by
  obtain ⟨-, -, -, hin, hop⟩ := effect_keepsHost hi s
  calc effect i (s.setResult r) = effect i (s.within ⟨s.inBytes, s.opBits, [], [], [], r⟩) := rfl
    _ = (effect i s).within ⟨s.inBytes, s.opBits, [], [], [], (effect i s).result⟩ := effect_within _ i s
    _ = effect i s := by rw [← hin, ← hop]; rfl

/-- An operation other than RESET completes after any result with the effect it has without it. -/
theorem exec_setResult {i : Instr} {s : State} (hi : i ≠ .reset) (hd : i.defect = none) (hl : s.cfg.legal = true)
    (r : OpResult) : exec i (s.setResult r) = .next (effect i s) :=
  (exec_next (s := s.setResult r) (exec_eq_complete_effect hi _) hd hl).trans
    (congrArg _ (effect_setResult hi s r))

theorem KeepsHost.legal {s t : State} (h : KeepsHost s t) (hl : s.cfg.legal = true) : t.cfg.legal = true := by
  obtain ⟨hcfg, -⟩ := h
  rw [hcfg]
  exact hl

/-- SYNC.APPEND takes every record that a run is classified as (R114 (c), R174). -/
theorem syncAppend_defect_of_clsRun {s : State} {r : Run} {cb : ClassifiedBit} (hl : s.cfg.legal = true)
    (h : (clsRun r s).2 = .bit cb) : (Instr.syncAppend cb.val cb.len cb.start).defect = none := by
  obtain ⟨hval, hlen⟩ := clsRun_bit hl h
  exact if_neg (not_or.mpr ⟨hval, hlen⟩)

/-- Settles O18: stage by stage, each run after the result of the one before (`exec_setResult`); the cases are those of
`afterRun` and `afterClassify`. -/
theorem inByteRunsStages : Obligations.InByteRunsStages := by
  intro b s hl hp
  let d := demodSample s.diHold b (s.setDi false s.diHold)
  let r := runSymbol d.2 d.1
  have hd : d.1.cfg.legal = true := (demodSample_only _ _ _).keepsHost.legal hl
  have hr : r.1.cfg.legal = true := (runSymbol_only _ _).keepsHost.legal hd
  have hin : exec (.inByte b) s = .next ((afterRun r.2 r.1).setResult .none) := by
    rw [exec_next (s' := effect (.inByte b) s) rfl rfl hl, effect, inByte_second b hp]
    rfl
  have hdemod : exec (.demodSample s.diHold b) (s.setDi false s.diHold) = .next (d.1.setResult (.symbol d.2)) :=
    exec_next rfl rfl hl
  have hrun : exec (.runSymbol d.2.sym d.2.idx) (d.1.setResult (.symbol d.2)) = .next (r.1.setResult (runResult r.2)) :=
    exec_setResult (i := .runSymbol d.2.sym d.2.idx) nofun rfl hd _
  refine ⟨_, _, d.2, _, hin, hdemod, rfl, hrun, ?_⟩
  cases r.2 with
  | none => exact .inl ⟨rfl, rfl⟩
  | some run =>
    let k := clsRun run r.1
    have hk : k.1.cfg.legal = true := (clsRun_only run r.1).gapOnly.keepsHost.legal hr
    have hcls : exec (.clsRun run.val run.len run.start) (r.1.setResult (.run run)) =
        .next (k.1.setResult (.classified k.2)) :=
      exec_setResult (i := .clsRun run.val run.len run.start) nofun rfl hr _
    refine .inr ⟨run, _, k.2, rfl, hcls, rfl, ?_⟩
    have hafter : afterRun (some run) r.1 = afterClassify k.2 k.1 := rfl
    rw [hafter]
    cases hc : k.2 with
    | bit cb =>
      have happ : exec (.syncAppend cb.val cb.len cb.start) (k.1.setResult (.classified (.bit cb))) =
          .next ((syncAppend cb k.1).setResult .none) :=
        exec_setResult (i := .syncAppend cb.val cb.len cb.start) nofun (syncAppend_defect_of_clsRun hr hc) hk _
      exact ⟨_, happ, rfl⟩
    | gap =>
      have hgap : exec .syncGap (k.1.setResult (.classified .gap)) =
          .next ((syncGap k.1).1.setResult (eventResult (syncGap k.1).2)) :=
        exec_setResult (i := .syncGap) nofun rfl hk _
      exact ⟨_, hgap, rfl⟩
    | drop => rfl

end Sys2Proof.Machine
end

/-! ## Proofs: the symbol classifier (spec/43_symbol_classifier.md) -/

section
/-! The classifier's numbers (R174): quantization, the folded remainder, the confidence, and their laws (R178). -/

namespace Sys2Proof.Machine

/-- `ONE` is even: SHIFT is at least 1 (R9). -/
theorem two_pow_shift {c : Config} (hl : c.legal = true) : 2 ^ c.shift = 2 * 2 ^ (c.shift - 1) := by
  obtain ⟨hshift, -⟩ := Config.legal_classifier hl
  exact (mul_pow_sub_one (by omega) 2).symm

/-- Of an evaluation `k·ONE + f` only the fraction is rounded. -/
theorem bitLength_of_evaluation {c : Config} {len k f : Nat} (hev : evaluation c len = k * 2 ^ c.shift + f) :
    bitLength c len = k + (f + (2 ^ c.shift / 2 - 1)) / 2 ^ c.shift := by
  rw [bitLength_eq, hev, Nat.add_assoc, Nat.mul_comm, Nat.mul_add_div (Nat.two_pow_pos _)]

theorem remainder_of_evaluation {c : Config} {len k f : Nat} (hev : evaluation c len = k * 2 ^ c.shift + f)
    (hf : f < 2 ^ c.shift) :
    remainder c len = if 2 ^ c.shift / 2 - 1 < f then 2 ^ c.shift - f else f := by
  rw [remainder_eq, hev, Nat.mul_add_mod_self_right, Nat.mod_eq_of_lt hf]

/-- R178 (a): the bit length is the nearest integer, a half going down; the remainder is the distance to the next
integer from a half on. -/
theorem quantize_fraction {c : Config} (hl : c.legal = true) {len k f : Nat}
    (hev : evaluation c len = k * 2 ^ c.shift + f) (hf : f < 2 ^ c.shift) :
    (f ≤ 2 ^ c.shift / 2 → bitLength c len = k) ∧ (2 ^ c.shift / 2 + 1 ≤ f → bitLength c len = k + 1) ∧
    (f + 1 ≤ 2 ^ c.shift / 2 → remainder c len = f) ∧ (2 ^ c.shift / 2 ≤ f → remainder c len = 2 ^ c.shift - f) := by
  have heven := two_pow_shift hl
  rw [bitLength_of_evaluation hev, remainder_of_evaluation hev hf]
  refine ⟨fun hdown => ?_, fun hup => ?_, fun hlow => if_neg (by omega), fun hhigh => if_pos (by omega)⟩
  · rw [Nat.div_eq_of_lt (by omega), Nat.add_zero]
  · rw [Nat.div_eq_of_lt_le (k := 1) (by omega) (by omega)]

/-- R178 (b). -/
theorem bitLength_eq_zero_iff {c : Config} (hl : c.legal = true) (len : Nat) :
    bitLength c len = 0 ↔ evaluation c len ≤ 2 ^ c.shift / 2 := by
  have heven := two_pow_shift hl
  have hpos : 0 < 2 ^ c.shift := Nat.two_pow_pos _
  rw [bitLength_eq, Nat.div_eq_zero_iff_lt hpos]
  omega

theorem evaluation_mono (c : Config) {len len' : Nat} (h : len ≤ len') : evaluation c len ≤ evaluation c len' := by
  rw [evaluation_eq, evaluation_eq]
  gcongr

theorem bitLength_mono (c : Config) {len len' : Nat} (h : len ≤ len') : bitLength c len ≤ bitLength c len' := by
  rw [bitLength_eq, bitLength_eq]
  gcongr
  exact evaluation_mono c h

/-- With `r` samples per bit, `k` bits evaluate to `k` exactly. -/
theorem evaluation_exact {c : Config} (hl : c.legal = true) {r : Nat} (hr : c.sampleRate = r * c.bitRate) (k : Nat) :
    evaluation c (k * r) = k * 2 ^ c.shift := by
  obtain ⟨hpos, -⟩ := Config.legal_rates hl
  rw [evaluation_eq]
  refine Nat.div_eq_of_eq_mul_left hpos ?_
  rw [hr]
  ring

theorem remainder_eq_zero {c : Config} {len : Nat} (h : evaluation c len % 2 ^ c.shift = 0) : remainder c len = 0 := by
  rw [remainder_eq, h, if_neg (Nat.not_lt_zero _)]

theorem remainder_le {c : Config} (hl : c.legal = true) (len : Nat) : remainder c len ≤ 2 ^ (c.shift - 1) := by
  have heven := two_pow_shift hl
  rw [remainder_eq]
  split <;> omega

/-- The confidence lies between the remainder per bit and the remainder, whatever the bit length. -/
theorem confidence_bounds (c : Config) (len : Nat) :
    remainder c len / bitLength c len ≤ confidence c len ∧ confidence c len ≤ remainder c len := by
  have hdiv : remainder c len / bitLength c len ≤ remainder c len := Nat.div_le_self _ _
  unfold confidence
  split
  · exact ⟨le_rfl, hdiv⟩
  · exact ⟨hdiv, le_rfl⟩

theorem confidence_eq_zero {c : Config} {len : Nat} (h : evaluation c len % 2 ^ c.shift = 0) : confidence c len = 0 :=
  Nat.le_zero.mp ((confidence_bounds c len).2.trans (remainder_eq_zero h).le)

theorem accepts_iff {c : Config} {len : Nat} :
    accepts c len = true ↔ confidence c len ≤ c.acceptThresh ∧ 0 < bitLength c len := decide_eq_true_iff

/-- Settles O21: clause by clause, from the lemmas above. -/
theorem classifierLaws : Obligations.ClassifierLaws := by
  intro c hl one
  refine ⟨fun len k f => quantize_fraction hl, bitLength_eq_zero_iff hl,
    fun len len' h => ⟨evaluation_mono c h, bitLength_mono c h⟩, bitLength_le hl, fun r k hr => ?_,
    fun len => confidence_eq_zero, fun len => ?_⟩
  · have hev : evaluation c (k * r) = k * one := evaluation_exact hl hr k
    have hfrac : evaluation c (k * r) % one = 0 := hev ▸ Nat.mul_mod_left k one
    obtain ⟨hdown, -⟩ := quantize_fraction (f := 0) hl hev (Nat.two_pow_pos _)
    exact ⟨hev, remainder_eq_zero hfrac, confidence_eq_zero hfrac, hdown (Nat.zero_le _)⟩
  · obtain ⟨hper, hconf⟩ := confidence_bounds c len
    have hrem := remainder_le hl len
    refine ⟨hconf, hrem, fun hmax hbl => accepts_iff.mpr ⟨hmax ▸ hconf.trans hrem, hbl⟩, fun hmin hacc => ?_⟩
    obtain ⟨hthresh, -⟩ := accepts_iff.mp hacc
    exact Nat.le_zero.mp (hper.trans (hthresh.trans hmin.le))

end Sys2Proof.Machine
end

section
/-! The operations RUN.SYMBOL (R171) and CLS.RUN (R174), and the run open at reset (R172). -/

namespace Sys2Proof.Machine

theorem runSymbol_same {r : SymbolRec} {s : State} (h : r.sym = s.run.val) :
    runSymbol r s = (s.setRun { s.run with len := saturatingSucc s.run.len }, none) := if_pos h

theorem runSymbol_other {r : SymbolRec} {s : State} (h : r.sym ≠ s.run.val) :
    runSymbol r s = (s.setRun ⟨r.sym, 1, r.idx⟩, some s.run) := if_neg h

theorem ofNat_length_toNat {k : Nat} (h : k < 2 ^ 32) : (BitVec.ofNat 32 k : Length).toNat = k :=
  Nat.mod_eq_of_lt h

theorem saturatingSucc_toNat (l : Length) : (saturatingSucc l).toNat = min (l.toNat + 1) (2 ^ 32 - 1) :=
  ofNat_length_toNat (by omega)

/-- Settles O19: by the two branches of `runSymbol`. -/
theorem runSymbolTracksRuns : Obligations.RunSymbolTracksRuns := by
  intro sym idx s hl
  have hx : exec (.runSymbol sym idx) s = .next (effect (.runSymbol sym idx) s) := exec_next rfl rfl hl
  rw [hx, effect]
  refine ⟨fun hsame => ⟨saturatingSucc s.run.len, saturatingSucc_toNat _, ?_⟩, fun hother => ?_⟩
  · rw [runSymbol_same hsame]
    rfl
  · rw [runSymbol_other hother]
    rfl

theorem clsRun_zero (len : Length) (start : Index) (s : State) : clsRun ⟨.zero, len, start⟩ s = (s, .gap) := rfl

theorem clsRun_accepted {val : Symbol} {len : Length} (start : Index) {s : State} (hval : val ≠ .zero)
    (hacc : accepts s.cfg len.toNat = true) :
    clsRun ⟨val, len, start⟩ s = (s, .bit ⟨val, BitVec.ofNat 32 (bitLength s.cfg len.toNat), start⟩) := by
  rw [clsRun, if_neg hval, if_pos hacc]

theorem clsRun_rejected {val : Symbol} {len : Length} (start : Index) {s : State} (hval : val ≠ .zero)
    (hrej : ¬ accepts s.cfg len.toNat = true) :
    clsRun ⟨val, len, start⟩ s = (s.raise .lowConf start, .drop) := by
  rw [clsRun, if_neg hval, if_neg hrej]

/-- The bit length of a run fits the record's 32 bits. -/
theorem ofNat_bitLength_toNat {c : Config} (hl : c.legal = true) (len : Length) :
    (BitVec.ofNat 32 (bitLength c len.toNat)).toNat = bitLength c len.toNat :=
  ofNat_length_toNat ((bitLength_le hl len.toNat).trans_lt len.isLt)

/-- Settles O20: the numbers of the statement are those of the model in plain arithmetic; then by the branches of
`clsRun`. -/
theorem clsRunQuantizes : Obligations.ClsRunQuantizes := by
  intro val len start s hl one half ev bl rem conf
  have hev : evaluation s.cfg len.toNat = ev := evaluation_eq _ _
  have hbl : bitLength s.cfg len.toNat = bl := by rw [bitLength_eq, hev]
  have hrem : remainder s.cfg len.toNat = rem := by rw [remainder_eq, hev]
  have hconf : confidence s.cfg len.toNat = conf := by rw [confidence, hbl, hrem]
  have hx : exec (.clsRun val len start) s = .next (effect (.clsRun val len start) s) := exec_next rfl rfl hl
  rw [← hconf, ← hbl, ← accepts_iff, hx, effect]
  refine ⟨fun hzero => ?_, fun hval hacc => ⟨_, ofNat_bitLength_toNat hl len, ?_⟩, fun hval hrej => ?_⟩
  · rw [hzero, clsRun_zero]
    rfl
  · rw [clsRun_accepted start hval hacc]
    rfl
  · rw [clsRun_rejected start hval hrej]
    rfl

theorem syncMatch_nil {pat : List PatElem} (h : 1 ≤ pat.length) : syncMatch pat [] = none := if_pos h

/-- A gap on an empty buffer finds no match, reports nothing and leaves the buffer empty (R196 (a)). -/
theorem syncGap_of_empty {s : State} (hl : s.cfg.legal = true) (hfb : s.fb = []) (htrunc : s.fbTrunc = false) :
    syncGap s = (s, none) := by
  obtain ⟨-, -, -, -, hpat, -⟩ := Config.legal_buffers hl
  have hgap : gapAttempt s = (s, none) := by
    simp [gapAttempt, State.fbLen, hfb, syncMatch_nil hpat]
  rw [syncGap, hgap, ← hfb, ← htrunc]
  rfl

/-- Settles O22: the symbol differs from the value of `Run.atReset`, that value is a gap, and the buffer is still empty. -/
theorem firstCarrierSymbolClosesEmptyRun : Obligations.FirstCarrierSymbolClosesEmptyRun := by
  intro c sym idx hl hsym
  obtain ⟨-, hclose⟩ := runSymbolTracksRuns sym idx (State.resetWith c) hl
  refine ⟨_, _, _, hclose hsym, rfl, rfl, (clsRunQuantizes .zero 0 0 _ hl).1 rfl, rfl, exec_next rfl rfl hl, ?_⟩
  rw [syncGap_of_empty hl rfl rfl]
  rfl

end Sys2Proof.Machine
end

/-! ## Proofs: the frame synchronizer (spec/44_frame_synchronizer.md) -/

section
/-! SYNC.APPEND (R191): the two branches of the capacity test. -/

namespace Sys2Proof.Machine

theorem setFbTrunc_eq (s : State) (x : Index) :
    setFbTrunc s x =
      { s with fbTrunc := true, diags := if s.fbTrunc then s.diags else s.diags ++ [⟨.fbTrunc, x⟩] } := by
  unfold setFbTrunc
  split <;> rfl

theorem syncAppend_of_lt {s : State} (e : ClassifiedBit) (h : s.fb.length < s.cfg.fbCap) :
    syncAppend e s = { s with fb := s.fb ++ [e] } := if_pos h

theorem syncAppend_of_full {s : State} (e : ClassifiedBit) (h : s.cfg.fbCap ≤ s.fb.length) :
    syncAppend e s = setFbTrunc s e.start := if_neg h.not_gt

/-- Settles O23: by the two branches of `syncAppend`. -/
theorem syncAppendBounded : Obligations.SyncAppendBounded := by
  intro val len start s hwf hl
  have hx : exec (.syncAppend val len start) s = .next (effect (.syncAppend val len start) s) :=
    exec_next rfl (wellFormed_iff.mp hwf) hl
  rw [hx, effect]
  refine ⟨fun hlt => ?_, fun hfull => ?_⟩
  · rw [syncAppend_of_lt _ hlt]
    rfl
  · rw [syncAppend_of_full _ hfull, setFbTrunc_eq]
    rfl

end Sys2Proof.Machine
end

section
/-! SYNC.MATCH (R193, R194): a search through the offsets at which the pattern fits into the buffer. -/

namespace Sys2Proof.Machine

/-- The pattern stands in the buffer from entry `k` on, element by element in value and length (R193). -/
def MatchesAt (pat : List PatElem) (fb : List ClassifiedBit) (k : Nat) : Prop :=
  k + pat.length ≤ fb.length ∧
    ∀ j, j < pat.length → ∃ e p, fb[k + j]? = some e ∧ pat[j]? = some p ∧ e.val = p.val ∧ e.len = p.len

/-- A match is an offset that the search visits and that passes the comparison. -/
theorem matchesAt_iff {pat : List PatElem} {fb : List ClassifiedBit} {k : Nat} :
    MatchesAt pat fb k ↔ k < fb.length + 1 - pat.length ∧ patternAt pat fb k = true := by
  have hfits : k + pat.length ≤ fb.length ↔ k < fb.length + 1 - pat.length := by omega
  rw [← hfits]
  exact and_congr_right fun hk => (patternAt_iff hk).symm

/-- The search as one `find?`: a buffer shorter than the pattern has no offset to visit. -/
theorem syncMatch_eq_find? (pat : List PatElem) (fb : List ClassifiedBit) :
    syncMatch pat fb = (List.range (fb.length + 1 - pat.length)).find? (patternAt pat fb) := by
  unfold syncMatch
  split
  · next hshort =>
    have hnone : fb.length + 1 - pat.length = 0 := by omega
    rw [hnone]
    rfl
  · next hlong =>
    have hsub : fb.length - pat.length + 1 = fb.length + 1 - pat.length := by omega
    rw [hsub]

theorem syncMatch_eq_none_iff {pat : List PatElem} {fb : List ClassifiedBit} :
    syncMatch pat fb = none ↔ ∀ k, ¬ MatchesAt pat fb k := by
  simp only [syncMatch_eq_find?, List.find?_range_eq_none, matchesAt_iff, not_and, Bool.not_eq_true, Bool.not_eq_true']

/-- R194: the offsets before the first match, all of them visited, are no matches. -/
theorem syncMatch_eq_some_iff {pat : List PatElem} {fb : List ClassifiedBit} {k : Nat} :
    syncMatch pat fb = some k ↔ MatchesAt pat fb k ∧ ∀ j, j < k → ¬ MatchesAt pat fb j := by
  rw [syncMatch_eq_find?, List.find?_range_eq_some, matchesAt_iff, List.mem_range]
  constructor
  · rintro ⟨hat, hk, hbefore⟩
    refine ⟨⟨hk, hat⟩, fun j hj hmatch => ?_⟩
    obtain ⟨-, hyes⟩ := matchesAt_iff.mp hmatch
    have hno : (!patternAt pat fb j) = true := hbefore j hj
    simp [hyes] at hno
  · rintro ⟨⟨hk, hat⟩, hbefore⟩
    refine ⟨hat, hk, fun j hj => ?_⟩
    have hno : ¬ patternAt pat fb j = true := fun hyes => hbefore j hj (matchesAt_iff.mpr ⟨hj.trans hk, hyes⟩)
    simpa using hno

/-- Settles O24: the search is through the offsets at which the pattern fits, in increasing order. -/
theorem syncMatchIsFirst : Obligations.SyncMatchIsFirst :=
  fun _ _ => ⟨fun _ => syncMatch_eq_some_iff, syncMatch_eq_none_iff⟩

end Sys2Proof.Machine
end

section
/-! SYNC.GAP (R195): the attempt with and without a match, and the operations it is composed of. -/

namespace Sys2Proof.Machine

theorem startAt_of_getElem? {fb : List ClassifiedBit} {k : Nat} {e : ClassifiedBit} (h : fb[k]? = some e) :
    startAt fb k = e.start := by
  rw [startAt, h]
  rfl

theorem isFerr_eq_beq (r : FrameResult) : isFerr r = (r == .ferr) := by
  cases r <;> rfl

theorem gapAttempt_of_match {s : State} {k : Nat} (h : syncMatch s.cfg.syncPattern s.fb = some k) :
    gapAttempt s = frameAttempt k s := by
  simp only [gapAttempt, h]

/-- The diagnostic of a gap with no match stands at the first entry, if the buffer holds any. -/
theorem raise_noSync_eq (fb : List ClassifiedBit) (s : State) :
    (if 0 < fb.length then s.raise .noSync (startAt fb 0) else s) =
      { s with diags := s.diags ++ (fb.head?.map fun e => ⟨.noSync, e.start⟩).toList } := by
  cases fb with
  | nil => simp
  | cons e es => rfl

theorem gapAttempt_of_no_match {s : State} (h : syncMatch s.cfg.syncPattern s.fb = none) :
    gapAttempt s =
      ({ s with diags := s.diags ++ (s.fb.head?.map fun e => ⟨.noSync, e.start⟩).toList }, none) := by
  rw [← raise_noSync_eq, gapAttempt, h]
  rfl

/-- The start of the suffix behind a match fits the operand of SER.FRAME (R92). -/
theorem suffixStart_toNat {s : State} {k : Nat} (hl : s.cfg.legal = true) (hcap : s.fb.length ≤ s.cfg.fbCap)
    (h : syncMatch s.cfg.syncPattern s.fb = some k) :
    (BitVec.ofNat 16 (k + s.cfg.syncPattern.length)).toNat = k + s.cfg.syncPattern.length := by
  obtain ⟨-, hmax, -⟩ := Config.legal_buffers hl
  obtain ⟨⟨hfits, -⟩, -⟩ := syncMatch_eq_some_iff.mp h
  exact Nat.mod_eq_of_lt (by omega)

theorem exec_serFrame {s : State} (ds : BitVec 16) (x : Index) (hl : s.cfg.legal = true) :
    exec (.serFrame ds x) s = .next ((serFrame ds.toNat x s).1.setResult (.serFrame (serFrame ds.toNat x s).2)) :=
  exec_next rfl rfl hl

/-- The attempt as operations: SER.FRAME, then APP.DECODE in the state it leaves. -/
theorem frameAttempt_runs_operations {s : State} {k : Nat} {e : ClassifiedBit} (hl : s.cfg.legal = true)
    (hcap : s.fb.length ≤ s.cfg.fbCap) (hk : syncMatch s.cfg.syncPattern s.fb = some k) (he : s.fb[k]? = some e) :
    ∃ s1 r, exec (.serFrame (BitVec.ofNat 16 (k + s.cfg.syncPattern.length)) e.start) s = .next s1 ∧
      s1.result = .serFrame r ∧
      exec (.appDecode (r == .ferr)) s1 =
        .next ((frameAttempt k s).1.setResult (eventResult (frameAttempt k s).2)) := by
  let a := serFrame (k + s.cfg.syncPattern.length) e.start s
  have hser : exec (.serFrame (BitVec.ofNat 16 (k + s.cfg.syncPattern.length)) e.start) s =
      .next (a.1.setResult (.serFrame a.2)) := by
    rw [exec_serFrame _ _ hl, suffixStart_toNat hl hcap hk]
  have hla : a.1.cfg.legal = true := (serFrame_only _ _ s).gapOnly.keepsHost.legal hl
  have hatt : frameAttempt k s = appDecode (a.2 == .ferr) a.1 := by
    rw [← isFerr_eq_beq, frameAttempt, startAt_of_getElem? he]
  refine ⟨_, a.2, hser, rfl, ?_⟩
  rw [hatt]
  exact exec_setResult (i := .appDecode (a.2 == .ferr)) nofun rfl hla _

/-- Settles O25: the frame is `syncGap_only`; the rest goes by whether there is a match. -/
theorem syncGapDecodesAndEmpties : Obligations.SyncGapDecodesAndEmpties := by
  intro s hl hcap
  refine ⟨effect .syncGap s, exec_next rfl rfl hl, ?frame, fun hnone => ?noMatch, fun k e hk he => ?isMatch⟩
  case frame => exact congrArg (State.setResult · (effect .syncGap s).result) (syncGap_only s)
  case noMatch =>
    rw [effect, syncGap, gapAttempt_of_no_match hnone]
    rfl
  case isMatch =>
    obtain ⟨s1, r, hser, hr, happ⟩ := frameAttempt_runs_operations hl hcap hk he
    refine ⟨s1, r, _, hser, hr, happ, ?_⟩
    rw [effect, syncGap, gapAttempt_of_match hk]
    rfl

end Sys2Proof.Machine
end

/-! ## Proofs: the deserializer (spec/45_uart_deserializer.md) -/

section
/-! SER.BIT (R212), one equation per state of the state machine: `WAIT`, `DATA(i)`, `PARITY`, and the three branches of
`STOP(j)`. -/

namespace Sys2Proof.Machine

theorem serBit_wait {s : State} (b : Level) (h : s.ser.state = .wait) : serBit b s = (serWait b s, .none) := by
  simp only [serBit, h]

theorem serBit_data {s : State} {i : Nat} (b : Level) (h : s.ser.state = .data i) :
    serBit b s = (serData i b s, .none) := by
  simp only [serBit, h]

theorem serBit_parity {s : State} (b : Level) (h : s.ser.state = .parity) : serBit b s = (serParity b s, .none) := by
  simp only [serBit, h]

theorem serBit_stop {s : State} {j : Nat} (b : Level) (h : s.ser.state = .stop j) : serBit b s = serStop j b s := by
  simp only [serBit, h]

theorem serStop_high_of_lt {s : State} {j : Nat} (h : j + 1 < s.cfg.stopBits) :
    serStop j .high s = (s.setSer { s.ser with state := .stop (j + 1) }, .none) := if_pos h

theorem serStop_high_of_last {s : State} {j : Nat} (h : s.cfg.stopBits ≤ j + 1) :
    serStop j .high s = emitByte s := if_neg h.not_gt

theorem exec_serBit {s : State} (b : Level) (hl : s.cfg.legal = true) :
    exec (.serBit b) s = .next ((serBit b s).1.setResult (.serBit (serBit b s).2)) :=
  exec_next rfl rfl hl

/-- Settles O26: the two branches of `WAIT`. -/
theorem serBitInWait : Obligations.SerBitInWait := by
  intro s hl hs
  refine ⟨?_, ?_⟩ <;> rw [exec_serBit _ hl, serBit_wait _ hs] <;> rfl

/-- Settles O28: the one branch of `PARITY`. -/
theorem serBitInParity : Obligations.SerBitInParity := by
  intro b s hl hs
  rw [exec_serBit _ hl, serBit_parity _ hs]
  cases b <;> rfl

/-- Settles O30: by the four parity modes. -/
theorem parityVerdict : Obligations.ParityVerdict := by
  intro c ones par
  have hpar : par.toNat = if par then 1 else 0 := by cases par <;> rfl
  unfold parityError
  rw [hpar]
  cases c.parityMode <;> simp

end Sys2Proof.Machine
end

section
/-! `DATA(i)` (R214): the data bit in the accumulator, in plain arithmetic. -/

namespace Sys2Proof.Machine

theorem toNat_levelBit (b : Level) : (levelBit b).toNat = if b = .high then 1 else 0 := by
  cases b <;> rfl

/-- The accumulator holds `i` bits, so the new bit and the old ones do not overlap and `|||` is a sum. -/
theorem toNat_shiftIn (lsbFirst : Bool) {i : Nat} {acc : Byte} (bit : Bool) (hi : i < 8) (hacc : acc.toNat < 2 ^ i) :
    (shiftIn lsbFirst i acc bit).toNat =
      if lsbFirst then acc.toNat + bit.toNat * 2 ^ i else 2 * acc.toNat + bit.toNat := by
  have hbit : bit.toNat < 2 ^ 1 := bit.toNat_lt
  have hpow : 2 ^ (i + 1) ≤ 2 ^ 8 := Nat.pow_le_pow_right (by decide) hi
  have hsucc : 2 ^ (i + 1) = 2 * 2 ^ i := Nat.pow_succ'
  have hof : (BitVec.ofNat 8 bit.toNat).toNat = bit.toNat := Nat.mod_eq_of_lt (by omega)
  unfold shiftIn
  cases lsbFirst with
  | true =>
    have hplace : bit.toNat * 2 ^ i < 2 ^ 8 := by
      have hle : bit.toNat * 2 ^ i ≤ 1 * 2 ^ i := Nat.mul_le_mul_right _ (by omega)
      omega
    have hsum : 2 ^ i * bit.toNat + acc.toNat = 2 ^ i * bit.toNat ||| acc.toNat := Nat.two_pow_add_eq_or_of_lt hacc _
    rw [if_pos rfl, if_pos rfl, BitVec.toNat_or, BitVec.toNat_shiftLeft, Nat.shiftLeft_eq, hof, Nat.mod_eq_of_lt hplace,
      Nat.or_comm, Nat.mul_comm, ← hsum, Nat.add_comm]
  | false =>
    have hsum : 2 ^ 1 * acc.toNat + bit.toNat = 2 ^ 1 * acc.toNat ||| bit.toNat := Nat.two_pow_add_eq_or_of_lt hbit _
    rw [if_neg nofun, if_neg nofun, BitVec.toNat_or, BitVec.toNat_shiftLeft, Nat.shiftLeft_eq, hof,
      Nat.mod_eq_of_lt (by omega), Nat.mul_comm, ← hsum, Nat.pow_one]

/-- Settles O27: the arithmetic is `toNat_shiftIn`, the next state is `afterData`. -/
theorem serBitInData : Obligations.SerBitInData := by
  intro i b s hl hs hwf bit
  obtain ⟨hi, -, hacc⟩ := Serial.wf_data hwf hs
  obtain ⟨-, hdata, -, -⟩ := Config.legal_framing hl
  refine ⟨shiftIn s.cfg.lsbFirst i s.ser.acc (levelBit b), ?_, ?_⟩
  · rw [toNat_shiftIn _ _ (hi.trans_le hdata) hacc, toNat_levelBit]
  · rw [exec_serBit _ hl, serBit_data _ hs, serData, toNat_levelBit]
    rfl

end Sys2Proof.Machine
end

section
/-! `STOP(j)` (R217) and the stored byte (R218), as one equation of the byte buffer and the diagnostics. -/

namespace Sys2Proof.Machine

/-- The byte enters the buffer while there is room; else it is dropped with the flag and, once, the diagnostic. -/
theorem storeByte_room (v : Byte) (s : State) :
    (if s.bbLen < s.cfg.byteCap then s.setBb { s.bb with bytes := s.bb.bytes ++ [v] } else setBbTrunc s) =
      let room := decide (s.bb.bytes.length < s.cfg.byteCap)
      { s with
        bb := {
          bytes := if room then s.bb.bytes ++ [v] else s.bb.bytes
          trunc := s.bb.trunc || !room
          perr := s.bb.perr
          start := s.bb.start }
        diags := s.diags ++ if !room && !s.bb.trunc then [⟨.bbTrunc, s.bb.start⟩] else [] } := by
  by_cases hroom : s.bb.bytes.length < s.cfg.byteCap
  · simp [State.bbLen, State.setBb, hroom]
  · cases htrunc : s.bb.trunc <;> simp [State.bbLen, State.setBb, State.raise, setBbTrunc, hroom, htrunc]

/-- The parity flag and, once, its diagnostic follow the verdict. -/
theorem storeByte_verdict (perr : Bool) (s : State) :
    (if perr then setBbPerr s else s) = { s with
      bb := { s.bb with perr := s.bb.perr || perr }
      diags := s.diags ++ if perr && !s.bb.perr then [⟨.perr, s.bb.start⟩] else [] } := by
  cases perr with
  | false => simp
  | true => cases hperr : s.bb.perr <;> simp [State.setBb, State.raise, setBbPerr, hperr]

theorem storeByte_eq (v : Byte) (perr : Bool) (s : State) :
    storeByte v perr s =
      let room := decide (s.bb.bytes.length < s.cfg.byteCap)
      { s with
        bb := {
          bytes := if room then s.bb.bytes ++ [v] else s.bb.bytes
          trunc := s.bb.trunc || !room
          perr := s.bb.perr || perr
          start := s.bb.start }
        diags := s.diags ++ (if !room && !s.bb.trunc then [⟨.bbTrunc, s.bb.start⟩] else []) ++
          (if perr && !s.bb.perr then [⟨.perr, s.bb.start⟩] else []) } := by
  rw [storeByte, storeByte_room, storeByte_verdict]

/-- Settles O29: the branches of `serStop`; the last one is `storeByte_eq`. -/
theorem serBitInStop : Obligations.SerBitInStop := by
  intro j s hl hs perr room
  refine ⟨?low, fun hlt => ?next, fun hlast => ?last⟩ <;> rw [exec_serBit _ hl, serBit_stop _ hs]
  case low => rfl
  case next => rw [serStop_high_of_lt hlt]; rfl
  case last => rw [serStop_high_of_last hlast, emitByte, storeByte_eq]; rfl

end Sys2Proof.Machine
end

section
/-! SER.FRAME (R211): the attempt as the bit events of the suffix, fed from fresh registers up to the first framing error,
and the two ways in which it ends. -/

namespace Sys2Proof.Machine

/-- Settles O58: SER.BIT changes the result field only through `setResult` (`serBit_only`). -/
theorem feedBitsIsSerBit : Obligations.FeedBitsIsSerBit := by
  intro b bs s hl
  refine ⟨rfl, _, (serBit b s).2, exec_serBit b hl, rfl, ?_⟩
  have hresult : { (serBit b s).1.setResult (.serBit (serBit b s).2) with result := s.result } = (serBit b s).1 := by
    rw [serBit_only b s]
    rfl
  rw [hresult]
  rfl

theorem feedBits_attempt {x : Index} {d0 : List DiagEvent} {s : State} (l : List Level) (h : Attempt x d0 s) :
    Attempt x d0 (feedBits l s).1 := by
  induction l generalizing s with
  | nil => exact h
  | cons b l ih => exact ih (serBit_attempt b h)

theorem Attempt.start_eq {x : Index} {d0 : List DiagEvent} {s : State} (h : Attempt x d0 s) : s.bb.start = x := by
  obtain ⟨hx, -⟩ := h
  exact hx

theorem serFinish_wait {s : State} (h : s.ser.state = .wait) : serFinish s = s := if_pos h

theorem serFinish_eq {s : State} {x : Index} (hx : s.bb.start = x) :
    serFinish s = { s with diags := s.diags ++ if s.ser.state = .wait then [] else [⟨.partialChar, x⟩] } := by
  subst hx
  unfold serFinish
  split <;> simp [State.raise]

theorem serFrame_of_ok {ds : Nat} {x : Index} {s t : State}
    (h : serEntries (s.fb.drop ds) (serStart x s) = (t, .ok)) : serFrame ds x s = (serFinish t, .ok) := by
  simp only [serFrame, h]

theorem serFrame_of_ferr {ds : Nat} {x : Index} {s t : State}
    (h : serEntries (s.fb.drop ds) (serStart x s) = (t, .ferr)) : serFrame ds x s = (t, .ferr) := by
  simp only [serFrame, h]

/-- The two endings of R211: step 3 after the last entry, or `E_FERR` at an entry of the suffix, in `WAIT`. -/
theorem serFrame_cases (ds : Nat) (x : Index) (s : State) :
    (∃ t, serFrame ds x s = (serFinish t, .ok) ∧ Attempt x s.diags t) ∨
    (∃ t, ∃ e ∈ s.fb.drop ds, serFrame ds x s = (t.raise .ferr e.start, .ferr) ∧ Attempt x s.diags t ∧
      t.ser.state = .wait) := by
  rcases serEntries_cases (s.fb.drop ds) (serStart_attempt x s) with ⟨t, ht, ha⟩ | ⟨t, e, he, ht, ha⟩
  · exact .inl ⟨t, serFrame_of_ok ht, ha⟩
  · exact .inr ⟨t, e, he, serFrame_of_ferr ht, ha⟩

theorem serFrame_nil {ds : Nat} (x : Index) {s : State} (h : s.fb.length ≤ ds) :
    serFrame ds x s = (serStart x s, .ok) := by
  have hloop : serEntries (s.fb.drop ds) (serStart x s) = (serStart x s, .ok) := by
    rw [List.drop_eq_nil_of_le h]
    rfl
  rw [serFrame_of_ok hloop, serFinish_wait rfl]

/-- Settles O33: the frame is `serFrame_only`, freshness is `serStart`, which overwrites what it is given, and the endings
are those of `serFrame_cases`. -/
theorem serFrameAttempt : Obligations.SerFrameAttempt := by
  intro ds x s hl
  refine ⟨_, exec_serFrame ds x hl, ?frame, fun r b => exec_serFrame (s := { s with ser := r, bb := b }) ds x hl, ?start,
    fun hempty => ?empty, ?ending⟩
  case frame => exact congrArg (State.setResult · _) (serFrame_only ds.toNat x s)
  case start =>
    rcases serFrame_cases ds.toNat x s with ⟨t, ht, ha⟩ | ⟨t, e, -, ht, ha, -⟩ <;> rw [ht]
    · rw [serFinish_eq ha.start_eq]
      exact ha.start_eq
    · exact ha.start_eq
  case empty =>
    rw [serFrame_nil x hempty]
    rfl
  case ending =>
    rcases serFrame_cases ds.toNat x s with ⟨t, ht, ha⟩ | ⟨t, e, he, ht, -, hw⟩ <;> rw [ht]
    · rw [serFinish_eq ha.start_eq]
      refine .inr ⟨rfl, fun hne => ?_⟩
      have hpending : t.ser.state ≠ .wait := hne
      simp [hpending]
    · exact .inl ⟨rfl, hw, e, he, by simp⟩

/-- Settles O35: after `FERR` APP.DECODE is called with the abort flag and does nothing; the rest is `serFrame_cases`. -/
theorem framingErrorAborts : Obligations.FramingErrorAborts := by
  intro s k e hl hk he hferr
  let a := serFrame (k + s.cfg.syncPattern.length) e.start s
  have hgap : syncGap s = (a.1.setFb [] false, none) := by
    rw [syncGap, gapAttempt_of_match hk, frameAttempt, startAt_of_getElem? he, hferr]
    rfl
  have hx : exec .syncGap s = .next ((a.1.setFb [] false).setResult .none) := by
    rw [exec_next (s' := effect .syncGap s) rfl rfl hl, effect, hgap]
    rfl
  have hframe : SerialOnly s a.1 := serFrame_only _ _ s
  refine ⟨_, hx, congrArg (fun t => (t.setFb [] false).setResult .none) hframe, ?_⟩
  rcases serFrame_cases (k + s.cfg.syncPattern.length) e.start s with ⟨t, ht, -⟩ | ⟨t, f, hf, ht, -, hw⟩
  · simp [ht] at hferr
  · have ha : a = (t.raise .ferr f.start, .ferr) := ht
    rw [ha]
    exact ⟨hw, f, hf, by simp⟩

/-- The bit events of the suffix as the spec writes them: high for +1, low for -1 (R102, R106). -/
theorem expand_eq (es : List ClassifiedBit) :
    expand es = es.flatMap fun e => List.replicate e.len.toNat (if e.val = .pos then Level.high else Level.low) := by
  have hlevel : ∀ v : Symbol, levelOf v = if v = .pos then .high else .low := fun v => by cases v <;> rfl
  simp only [expand, hlevel]

theorem firstFerr_unique {rs : List SerResult} {k k' : Nat}
    (hk : rs[k]? = some .ferr) (hfirst : ∀ j, j < k → rs[j]? ≠ some .ferr)
    (hk' : rs[k']? = some .ferr) (hfirst' : ∀ j, j < k' → rs[j]? ≠ some .ferr) : k = k' := by
  rcases Nat.lt_trichotomy k k' with h | h | h
  · exact absurd hk (hfirst' k h)
  · exact h
  · exact absurd hk' (hfirst k' h)

/-- Settles O59: `serEntries_feed` from the fresh registers; the first framing error is at one place only. -/
theorem serFrameFoldsBitEvents : Obligations.SerFrameFoldsBitEvents := by
  intro ds x s hl _ events suffix fresh fed
  have hevents : ∀ es, events es = expand es := fun es => (expand_eq es).symm
  have hfed : fed = feedBits (expand suffix) (serStart x s) := by rw [← hevents]; rfl
  have hloop := serEntries_feed suffix (serStart x s)
  rw [← hfed] at hloop
  refine ⟨fun hnone => ?_, fun k hk hfirst => ?_⟩ <;> rw [exec_serFrame ds x hl]
  · rcases hloop with ⟨-, hok⟩ | ⟨-, -, -, k, -, -, -, hk, -⟩
    · have hstart : fed.1.bb.start = x := by
        rw [hfed]
        exact (feedBits_attempt _ (serStart_attempt x s)).start_eq
      rw [serFrame_of_ok hok, serFinish_eq hstart]
      rfl
    · exact absurd (List.mem_of_getElem? hk) hnone
  · rcases hloop with ⟨hnone, -⟩ | ⟨before, e, behind, k', hcut, hge, hlt, hk', hfirst', hferr⟩
    · exact absurd (List.mem_of_getElem? hk) hnone
    · obtain rfl : k = k' := firstFerr_unique hk hfirst hk' hfirst'
      refine ⟨before, e, behind, hcut, ?_, ?_, ?_⟩
      · rwa [hevents]
      · rwa [hevents]
      · rw [serFrame_of_ferr hferr, hevents]
        rfl

end Sys2Proof.Machine
end

section
/-! R222 (b): what an attempt leaves is a function of the bit events, whatever the entries are. -/

namespace Sys2Proof.Machine

/-- There is one way to feed bit events up to the first framing error. -/
theorem FedTo.unique {l : List Level} {s : State} {o o' : State × FrameResult} (h : FedTo l s o) (h' : FedTo l s o') :
    o = o' := by
  rcases h with ⟨hn, rfl⟩ | ⟨k, hk, hfirst, rfl⟩ <;> rcases h' with ⟨hn', rfl⟩ | ⟨k', hk', hfirst', rfl⟩
  · rfl
  · exact absurd (List.mem_of_getElem? hk') hn
  · exact absurd (List.mem_of_getElem? hk) hn'
  · obtain rfl : k = k' := firstFerr_unique hk hfirst hk' hfirst'
    rfl

/-- SER.BIT does not read the frame buffer (R212). -/
theorem serBit_setFb (fb : List ClassifiedBit) (trunc : Bool) (b : Level) (s : State) :
    serBit b (s.setFb fb trunc) = ((serBit b s).1.setFb fb trunc, (serBit b s).2) := by
  cases hs : s.ser.state with
  | wait => rw [serBit_wait b hs, serBit_wait b (s := s.setFb fb trunc) hs]; cases b <;> rfl
  | data i => rw [serBit_data b hs, serBit_data b (s := s.setFb fb trunc) hs]; rfl
  | parity => rw [serBit_parity b hs, serBit_parity b (s := s.setFb fb trunc) hs]; rfl
  | stop j =>
    rw [serBit_stop b hs, serBit_stop b (s := s.setFb fb trunc) hs]
    cases b with
    | low => rfl
    | high =>
      rcases Nat.lt_or_ge (j + 1) s.cfg.stopBits with hlt | hlast
      · rw [serStop_high_of_lt hlt, serStop_high_of_lt (s := s.setFb fb trunc) hlt]; rfl
      · rw [serStop_high_of_last hlast, serStop_high_of_last (s := s.setFb fb trunc) hlast, emitByte, emitByte,
          storeByte_eq, storeByte_eq]
        rfl

theorem feedBits_setFb (fb : List ClassifiedBit) (trunc : Bool) (l : List Level) (s : State) :
    feedBits l (s.setFb fb trunc) = ((feedBits l s).1.setFb fb trunc, (feedBits l s).2) := by
  induction l generalizing s with
  | nil => rfl
  | cons b l ih => simp only [feedBits, serBit_setFb, ih]

theorem FedTo.setFb {l : List Level} {s : State} {o : State × FrameResult} (fb : List ClassifiedBit) (trunc : Bool)
    (h : FedTo l s o) : FedTo l (s.setFb fb trunc) (o.1.setFb fb trunc, o.2) := by
  rcases h with ⟨hn, rfl⟩ | ⟨k, hk, hfirst, rfl⟩
  · exact .inl ⟨by rwa [feedBits_setFb], by rw [feedBits_setFb]⟩
  · refine .inr ⟨k, ?_, ?_, ?_⟩ <;> rw [feedBits_setFb]
    · exact hk
    · exact hfirst

/-- SER.FRAME has the result, the serial registers and the byte buffer of its bit events fed from fresh registers. -/
theorem serFrame_fedTo (ds : Nat) (x : Index) (s : State) :
    ∃ o, FedTo (expand (s.fb.drop ds)) (serStart x s) o ∧
      (serFrame ds x s).2 = o.2 ∧ (serFrame ds x s).1.ser = o.1.ser ∧ (serFrame ds x s).1.bb = o.1.bb := by
  rcases serEntries_feed (s.fb.drop ds) (serStart x s) with ⟨hn, hok⟩ | ⟨-, e, -, k, -, -, -, hk, hfirst, hferr⟩
  · refine ⟨_, .inl ⟨hn, rfl⟩, ?_⟩
    rw [serFrame_of_ok hok, serFinish_eq rfl]
    exact ⟨rfl, rfl, rfl⟩
  · refine ⟨_, .inr ⟨k, hk, hfirst, rfl⟩, ?_⟩
    rw [serFrame_of_ferr hferr]
    exact ⟨rfl, rfl, rfl⟩

/-- Settles O32: both attempts are what their bit events, which are the same, are fed to. -/
theorem onlyBitEventsMatter : Obligations.OnlyBitEventsMatter := by
  intro ds x s fb hl hsame
  obtain ⟨o, ho, hresult, hser, hbb⟩ := serFrame_fedTo ds.toNat x s
  obtain ⟨o', ho', hresult', hser', hbb'⟩ := serFrame_fedTo ds.toNat x (s.setFb fb s.fbTrunc)
  have hfed : FedTo (expand (s.fb.drop ds.toNat)) (serStart x (s.setFb fb s.fbTrunc)) o' := by rwa [hsame]
  obtain rfl : (o.1.setFb fb s.fbTrunc, o.2) = o' := (ho.setFb fb s.fbTrunc).unique hfed
  refine ⟨_, _, exec_serFrame ds x hl, exec_serFrame (s := s.setFb fb s.fbTrunc) ds x hl, ?_, ?_, ?_⟩
  · exact congrArg OpResult.serFrame (hresult.trans hresult'.symm)
  · exact hser.trans hser'.symm
  · exact hbb.trans hbb'.symm

end Sys2Proof.Machine
end

section
/-! R222 (a), (c): a serial character, fed bit event by bit event. All but its last bit event give `NONE` and change only
the serial registers; `FedSilently` names this and composes along the character. -/

namespace Sys2Proof.Machine

/-- Under the configuration `c` the bit events of `l` take the serial registers from `r` to `r'`, each with result `NONE`
and with nothing else changed. -/
def FedSilently (c : Config) (l : List Level) (r r' : Serial) : Prop :=
  ∀ s : State, s.cfg = c → feedBits l (s.setSer r) = (s.setSer r', List.replicate l.length .none)

theorem FedSilently.nil (c : Config) (r : Serial) : FedSilently c [] r r := fun _ _ => rfl

theorem FedSilently.bit {c : Config} {b : Level} {r r' : Serial}
    (h : ∀ s : State, s.cfg = c → serBit b (s.setSer r) = (s.setSer r', .none)) : FedSilently c [b] r r' := by
  intro s hc
  simp only [feedBits, h s hc]
  rfl

theorem FedSilently.append {c : Config} {l m : List Level} {r r' r'' : Serial} (hl : FedSilently c l r r')
    (hm : FedSilently c m r' r'') : FedSilently c (l ++ m) r r'' := by
  intro s hc
  rw [feedBits_append, hl s hc, hm s hc, List.replicate_append_replicate, List.length_append]

/-- R213: idle bits between characters. -/
theorem fedSilently_idle (c : Config) (n : Nat) {r : Serial} (h : r.state = .wait) :
    FedSilently c (List.replicate n .high) r r := by
  induction n with
  | zero => exact .nil c r
  | succ n ih => exact (FedSilently.bit fun s _ => serBit_wait (s := s.setSer r) .high h).append ih

/-- R213: the start bit. -/
theorem fedSilently_start (c : Config) {r : Serial} (h : r.state = .wait) :
    FedSilently c (List.replicate Config.startBits .low) r ⟨.data 0, 0, 0, false⟩ :=
  .bit fun s _ => serBit_wait (s := s.setSer r) .low h

/-! ### The data bits -/

/-- The data bit at place `k` on the line (R104). -/
def lineBit (c : Config) (b : Byte) (k : Nat) : Bool :=
  if c.lsbFirst then b.getLsbD k else b.getLsbD (c.dataBits - 1 - k)

theorem dataLevels_eq (c : Config) (b : Byte) :
    dataLevels c b = (List.range c.dataBits).map fun k => levelOfBit (lineBit c b k) := by
  unfold dataLevels lineBit
  split <;> rfl

@[simp] theorem levelBit_levelOfBit (x : Bool) : levelBit (levelOfBit x) = x := by cases x <;> rfl

/-- The value of the first `k` data bits on the line: the low bits of the byte with `LSB_FIRST`, else the high ones. -/
def receivedValue (c : Config) (b : Byte) (k : Nat) : Nat :=
  if c.lsbFirst then b.toNat % 2 ^ k else b.toNat / 2 ^ (c.dataBits - k)

/-- The number of 1 bits among the first `k` data bits on the line. -/
def receivedOnes (c : Config) (b : Byte) (k : Nat) : Nat := (List.range k).countP (lineBit c b)

/-- The state in which data bit `k` is awaited, or what follows the data bits (R214). -/
def awaiting (c : Config) (k : Nat) : SerState :=
  if k < c.dataBits then .data k else if c.parityMode ≠ .none then .parity else .stop 0

/-- The serial registers after the first `k` data bits of `b`. -/
def Serial.received (c : Config) (b : Byte) (k : Nat) : Serial :=
  ⟨awaiting c k, BitVec.ofNat 8 (receivedValue c b k), receivedOnes c b k, false⟩

theorem receivedValue_lt {c : Config} {b : Byte} (hb : b.toNat < 2 ^ c.dataBits) {k : Nat} (hk : k ≤ c.dataBits) :
    receivedValue c b k < 2 ^ k := by
  unfold receivedValue
  split
  · exact Nat.mod_lt _ (Nat.two_pow_pos k)
  · rwa [Nat.div_lt_iff_lt_mul (Nat.two_pow_pos _), ← Nat.pow_add, Nat.add_sub_cancel' hk]

theorem receivedValue_succ {c : Config} {k : Nat} (b : Byte) (hk : k < c.dataBits) :
    receivedValue c b (k + 1) =
      if c.lsbFirst then receivedValue c b k + (lineBit c b k).toNat * 2 ^ k
      else 2 * receivedValue c b k + (lineBit c b k).toNat := by
  unfold receivedValue lineBit
  cases c.lsbFirst with
  | true =>
    simp only [if_true, BitVec.getLsbD, Nat.toNat_testBit]
    rw [Nat.mod_pow_succ, Nat.mul_comm]
  | false =>
    have hplace : c.dataBits - k = c.dataBits - 1 - k + 1 := by omega
    have hplace' : c.dataBits - (k + 1) = c.dataBits - 1 - k := by omega
    simp only [Bool.false_eq_true, if_false, BitVec.getLsbD, Nat.toNat_testBit]
    rw [hplace, hplace', Nat.pow_succ, ← Nat.div_div_eq_div_mul, Nat.div_add_mod]

theorem receivedOnes_succ (c : Config) (b : Byte) (k : Nat) :
    receivedOnes c b (k + 1) = receivedOnes c b k + (lineBit c b k).toNat := by
  unfold receivedOnes
  rw [List.range_succ, List.countP_append]
  cases h : lineBit c b k <;> simp [h]

/-- All data bits of the byte received: the byte itself. -/
theorem receivedValue_all {c : Config} {b : Byte} (hb : b.toNat < 2 ^ c.dataBits) :
    receivedValue c b c.dataBits = b.toNat := by
  unfold receivedValue
  split
  · exact Nat.mod_eq_of_lt hb
  · rw [Nat.sub_self, Nat.pow_zero, Nat.div_one]

/-- The count of ones does not depend on the bit order. -/
theorem receivedOnes_all (c : Config) (b : Byte) : receivedOnes c b c.dataBits = onesOf c b := by
  unfold receivedOnes onesOf lineBit
  rw [← List.countP_eq_length_filter]
  cases c.lsbFirst with
  | true => rfl
  | false =>
    have hrev : (List.range c.dataBits).reverse = (List.range c.dataBits).map (c.dataBits - 1 - ·) := by
      rw [List.range_eq_range', List.reverse_range', ← List.range_eq_range', Nat.zero_add]
    rw [← List.countP_reverse (l := List.range c.dataBits) (p := fun k => b.getLsbD k), hrev, List.countP_map]
    rfl

theorem Serial.received_zero {c : Config} {b : Byte} (hl : c.legal = true) (hb : b.toNat < 2 ^ c.dataBits) :
    Serial.received c b 0 = ⟨.data 0, 0, 0, false⟩ := by
  obtain ⟨hdata, -, -, -⟩ := Config.legal_framing hl
  have hvalue : receivedValue c b 0 = 0 := Nat.lt_one_iff.mp (receivedValue_lt hb (Nat.zero_le _))
  have hstate : awaiting c 0 = .data 0 := if_pos hdata
  rw [Serial.received, hvalue, hstate]
  rfl

/-- All data bits received: the byte and its ones, and the parity bit or the first stop bit is awaited. -/
theorem Serial.received_all {c : Config} {b : Byte} (hb : b.toNat < 2 ^ c.dataBits) :
    Serial.received c b c.dataBits =
      ⟨if c.parityMode ≠ .none then .parity else .stop 0, b, onesOf c b, false⟩ := by
  have hstate : awaiting c c.dataBits = if c.parityMode ≠ .none then .parity else .stop 0 := if_neg (lt_irrefl _)
  rw [Serial.received, receivedValue_all hb, receivedOnes_all, hstate, BitVec.ofNat_toNat, BitVec.setWidth_eq]

/-- The accumulator after one more data bit: `toNat_shiftIn` says of it what `receivedValue_succ` says of the value. -/
theorem shiftIn_receivedValue {c : Config} {b : Byte} {k : Nat} (hl : c.legal = true) (hb : b.toNat < 2 ^ c.dataBits)
    (hk : k < c.dataBits) :
    shiftIn c.lsbFirst k (BitVec.ofNat 8 (receivedValue c b k)) (lineBit c b k) =
      BitVec.ofNat 8 (receivedValue c b (k + 1)) := by
  obtain ⟨-, hdata, -, -⟩ := Config.legal_framing hl
  have hfits : ∀ j ≤ c.dataBits, (BitVec.ofNat 8 (receivedValue c b j)).toNat = receivedValue c b j := fun j hj =>
    Nat.mod_eq_of_lt ((receivedValue_lt hb hj).trans_le (Nat.pow_le_pow_right (by decide) (hj.trans hdata)))
  apply BitVec.eq_of_toNat_eq
  rw [toNat_shiftIn _ _ (hk.trans_le hdata) (by rw [hfits k hk.le]; exact receivedValue_lt hb hk.le), hfits k hk.le,
    hfits (k + 1) hk, receivedValue_succ b hk]

/-- R214: the data bits up to place `k`. -/
theorem fedSilently_dataBits {c : Config} {b : Byte} (hl : c.legal = true) (hb : b.toNat < 2 ^ c.dataBits) {k : Nat}
    (hk : k ≤ c.dataBits) :
    FedSilently c ((List.range k).map fun j => levelOfBit (lineBit c b j)) (.received c b 0) (.received c b k) := by
  induction k with
  | zero => exact .nil c _
  | succ k ih =>
    have hlast : FedSilently c [levelOfBit (lineBit c b k)] (.received c b k) (.received c b (k + 1)) := by
      refine .bit fun s hc => ?_
      subst hc
      have hstate : (s.setSer (.received s.cfg b k)).ser.state = .data k := if_pos hk
      rw [serBit_data _ hstate, serData, levelBit_levelOfBit, Serial.received, Serial.received, receivedOnes_succ,
        ← shiftIn_receivedValue hl hb hk]
      rfl
    rw [List.range_succ, List.map_append]
    exact (ih (by omega)).append hlast

/-! ### The parity bit, the stop bits, and the whole character -/

/-- The parity bit that a character carries, if any. -/
def charParity (c : Config) (par : Bool) : Bool := if c.parityMode = .none then false else par

/-- R216: the parity bit, if one is configured. -/
theorem fedSilently_parity {c : Config} {b : Byte} (par : Bool) (hb : b.toNat < 2 ^ c.dataBits) :
    FedSilently c (if c.parityMode = .none then [] else [levelOfBit par]) (.received c b c.dataBits)
      ⟨.stop 0, b, onesOf c b, charParity c par⟩ := by
  rw [Serial.received_all hb, charParity]
  by_cases hnone : c.parityMode = .none
  · simp only [hnone, ne_eq, not_true, if_true, if_false]
    exact .nil c _
  · simp only [hnone, ne_eq, not_false_eq_true, if_true, if_false]
    refine .bit fun s _ => ?_
    rw [serBit_parity _ rfl, serParity, levelBit_levelOfBit]
    rfl

/-- R217: high stop bits that are not the last. -/
theorem fedSilently_stopBits {c : Config} {r : Serial} {m : Nat} (hm : m < c.stopBits) :
    FedSilently c (List.replicate m .high) { r with state := .stop 0 } { r with state := .stop m } := by
  induction m with
  | zero => exact .nil c _
  | succ m ih =>
    rw [List.replicate_succ']
    refine (ih (by omega)).append (.bit fun s hc => ?_)
    rw [serBit_stop _ rfl, serStop_high_of_lt (by rwa [State.setSer_cfg, hc])]
    rfl

/-- A character but for its last stop bit. -/
def charLevelsInit (c : Config) (b : Byte) (par : Bool) : List Level :=
  List.replicate Config.startBits .low ++ dataLevels c b ++
    (if c.parityMode = .none then [] else [levelOfBit par]) ++ List.replicate (c.stopBits - 1) .high

theorem charLevels_eq_append {c : Config} (b : Byte) (par : Bool) (hl : c.legal = true) :
    charLevels c b par = charLevelsInit c b par ++ [.high] := by
  obtain ⟨-, -, hstop, -⟩ := Config.legal_framing hl
  have hlast : c.stopBits = c.stopBits - 1 + 1 := by omega
  rw [charLevels, charLevelsInit, List.append_assoc _ _ [Level.high], ← List.replicate_succ', ← hlast]

theorem fedSilently_charLevelsInit {c : Config} {b : Byte} (par : Bool) {r : Serial} (hl : c.legal = true)
    (hr : r.state = .wait) (hb : b.toNat < 2 ^ c.dataBits) :
    FedSilently c (charLevelsInit c b par) r ⟨.stop (c.stopBits - 1), b, onesOf c b, charParity c par⟩ := by
  obtain ⟨-, -, hstop, -⟩ := Config.legal_framing hl
  have hstart := fedSilently_start c hr
  have hdata := fedSilently_dataBits hl hb le_rfl
  have hpar := fedSilently_parity par hb
  have hstops := fedSilently_stopBits (c := c) (r := ⟨.stop 0, b, onesOf c b, charParity c par⟩) (m := c.stopBits - 1)
    (by omega)
  rw [← dataLevels_eq, Serial.received_zero hl hb] at hdata
  exact ((hstart.append hdata).append hpar).append hstops

theorem charLevels_length (c : Config) (b : Byte) (par : Bool) :
    (charLevels c b par).length = 1 + c.dataBits + (if c.parityMode = .none then 0 else 1) + c.stopBits := by
  rw [charLevels, dataLevels_eq]
  split <;> simp [Config.startBits] <;> omega

/-- R222 (c): a character ends in the emission of its byte, with its ones and its parity bit. -/
theorem feedBits_charLevels {s : State} {b : Byte} (par : Bool) (hl : s.cfg.legal = true) (hs : s.ser.state = .wait)
    (hb : b.toNat < 2 ^ s.cfg.dataBits) :
    feedBits (charLevels s.cfg b par) s =
      let emitted := emitByte (s.setSer ⟨.stop (s.cfg.stopBits - 1), b, onesOf s.cfg b, charParity s.cfg par⟩)
      (emitted.1, List.replicate ((charLevels s.cfg b par).length - 1) .none ++ [emitted.2]) := by
  have hinit := fedSilently_charLevelsInit par hl hs hb s rfl
  have hself : s.setSer s.ser = s := rfl
  rw [hself] at hinit
  rw [charLevels_eq_append b par hl, feedBits_append, hinit, List.length_append, List.length_singleton,
    Nat.add_sub_cancel]
  simp only [feedBits]
  rw [serBit_stop _ rfl, serStop_high_of_last (by rw [State.setSer_cfg]; omega)]

/-- Settles O31: the character ends in `emitByte` (`feedBits_charLevels`), whose byte finds room (`storeByte_eq`). -/
theorem characterRoundTrip : Obligations.CharacterRoundTrip := by
  intro s b par idle hl hs hb hroom char r p bad
  have hidle : feedBits (List.replicate idle .high) s = (s, List.replicate idle .none) := by
    have h := fedSilently_idle s.cfg idle hs s rfl
    rwa [List.length_replicate] at h
  have hr : r = _ := feedBits_charLevels par hl hs hb
  refine ⟨hidle, charLevels_length s.cfg b par, ?_, ?_, ?_⟩ <;> rw [hr, emitByte]
  · rfl
  · rfl
  · have hbad : parityError s.cfg (onesOf s.cfg b) (charParity s.cfg par) = bad := rfl
    rw [State.setSer_bb, storeByte_eq]
    simp [hroom, hbad]

end Sys2Proof.Machine
end

/-! ## Proofs: the field extractor (spec/46_field_extractor.md) -/

section
/-! APP.DIGIT (R234): a search through the ten distinct patterns of `DIG`. -/

namespace Sys2Proof.Machine

/-- Distinct patterns: the index a byte stands at is the one the search finds. -/
theorem digitCode_of_getElem? {patterns : List Byte} {k : Nat} {b : Byte} (hd : patterns.Nodup)
    (h : patterns[k]? = some b) : digitCode patterns b = k := by
  obtain ⟨hk, rfl⟩ := List.getElem?_eq_some_iff.mp h
  have hfound : patterns.idxOf? patterns[k] = some k :=
    List.idxOf?_eq_some_iff.mpr ⟨hk, rfl, fun j hj he => hj.ne (hd.getElem_inj_iff.mp he)⟩
  rw [digitCode, hfound]
  rfl

theorem digitCode_of_notMem {patterns : List Byte} {b : Byte} (h : b ∉ patterns) : digitCode patterns b = 15 := by
  rw [digitCode, List.idxOf?_eq_none_iff.mpr h]
  rfl

/-- The index of one of the ten patterns (R109). -/
theorem digitIndex_le {c : Config} (hl : c.legal = true) {k : Nat} {b : Byte} (h : c.digitPatterns[k]? = some b) :
    k ≤ 9 := by
  obtain ⟨-, -, hten, -⟩ := Config.legal_tables hl
  obtain ⟨hk, -⟩ := List.getElem?_eq_some_iff.mp h
  omega

/-- A digit code is a digit or blank (R109). -/
theorem digitCode_le_or_blank {c : Config} (hl : c.legal = true) (b : Byte) :
    digitCode c.digitPatterns b ≤ 9 ∨ digitCode c.digitPatterns b = 15 := by
  obtain ⟨-, -, -, hd, -⟩ := Config.legal_tables hl
  by_cases hb : b ∈ c.digitPatterns
  · obtain ⟨k, hk⟩ := List.mem_iff_getElem?.mp hb
    rw [digitCode_of_getElem? hd hk]
    exact .inl (digitIndex_le hl hk)
  · exact .inr (digitCode_of_notMem hb)

theorem exec_appDigit {s : State} (b : Byte) (hl : s.cfg.legal = true) :
    exec (.appDigit b) s = .next { s with result := .digit (digitCode s.cfg.digitPatterns b) } :=
  exec_next rfl rfl hl

/-- Settles O38: the patterns of a legal configuration are ten and distinct. -/
theorem appDigitLooksUp : Obligations.AppDigitLooksUp := by
  intro b s hl
  obtain ⟨-, -, -, hd, -⟩ := Config.legal_tables hl
  refine ⟨fun k hk => ⟨digitIndex_le hl hk, ?_⟩, fun hb => ?_⟩
  · rw [exec_appDigit b hl, digitCode_of_getElem? hd hk]
  · rw [exec_appDigit b hl, digitCode_of_notMem hb]

end Sys2Proof.Machine
end

section
/-! APP.DECODE (R231): the kind of a frame, its event, and what is reported. -/

namespace Sys2Proof.Machine

/-! ### The branches of APP.DECODE -/

theorem exec_appDecode {s : State} (abort : Bool) (hl : s.cfg.legal = true) :
    exec (.appDecode abort) s = .next ((appDecode abort s).1.setResult (eventResult (appDecode abort s).2)) :=
  exec_next rfl rfl hl

theorem appDecode_abort (s : State) : appDecode true s = (s, none) := rfl

theorem appDecode_of_short {s : State} (h : s.bb.bytes.length ≤ 3) :
    appDecode false s = (s.raise .short s.bb.start, none) := if_pos h

theorem appDecode_of_long {s : State} (h : 3 < s.bb.bytes.length) : appDecode false s = reportFrame s :=
  if_neg h.not_ge

theorem reportFrame_of_known {s : State} (h : frameKind s.cfg s.bb ≠ .unknown) :
    reportFrame s = (s.emit (frameEvent s), some (frameEvent s)) := if_neg h

theorem reportFrame_dropped {s : State} (h : frameKind s.cfg s.bb = .unknown) (hd : s.cfg.dumpUnknownEn = false) :
    reportFrame s = (s.raise .malformed s.bb.start, none) := by
  simp [reportFrame, h, hd]

theorem reportFrame_dumped {s : State} (h : frameKind s.cfg s.bb = .unknown) (hd : s.cfg.dumpUnknownEn = true) :
    reportFrame s = ((s.raise .malformed s.bb.start).emit (frameEvent s), some (frameEvent s)) := by
  simp [reportFrame, h, hd]

/-- Settles O36: the first two branches of `appDecode`. -/
theorem appDecodeDropsAbortedAndShort : Obligations.AppDecodeDropsAbortedAndShort := by
  intro s hl
  refine ⟨?_, fun hshort => ?_⟩
  · rw [exec_appDecode true hl, appDecode_abort]
    rfl
  · rw [exec_appDecode false hl, appDecode_of_short hshort]
    rfl

/-! ### The kind of a frame (R231 steps 3 and 4) -/

/-- The signature of a record is compared with the first two bytes, its trailer with the last one. -/
theorem kindMatches_eq {b : ByteBuffer} {b0 b1 last : Byte} {mid : List Byte}
    (h : b.bytes = b0 :: b1 :: (mid ++ [last])) :
    kindMatches b = fun r => r.sig0 == b0 && r.sig1 == b1 && r.trailer == last := by
  have h0 : readBb b 0 = b0 := by simp [readBb, h]
  have h1 : readBb b 1 = b1 := by simp [readBb, h]
  have hlast : readBb b (b.bytes.length - 1) = last := by simp [readBb, h]
  funext r
  rw [kindMatches, h0, h1, hlast, BEq.comm (a := b0), BEq.comm (a := b1), BEq.comm (a := last)]

theorem tooShortForMap_iff {c : Config} {b : ByteBuffer} :
    tooShortForMap c b = true ↔ ∃ f ∈ c.fieldMap, b.bytes.length ≤ f.offset.toNat := by
  simp [tooShortForMap]

theorem frameKind_of_no_record {c : Config} {b : ByteBuffer} (h : c.kinds.find? (kindMatches b) = none) :
    frameKind c b = .unknown := by
  simp [frameKind, signatureKind, h]

theorem signatureKind_of_record {c : Config} {b : ByteBuffer} {r : KindRec}
    (h : c.kinds.find? (kindMatches b) = some r) : signatureKind c b = kindOfCode r.kind := by
  rw [signatureKind, h]

theorem frameKind_of_clock {c : Config} {b : ByteBuffer} (h : signatureKind c b = .clock) :
    frameKind c b = .clock := by
  simp [frameKind, h]

/-- A `score` frame with a field beyond its end is downgraded (R232). -/
theorem frameKind_of_score {c : Config} {b : ByteBuffer} (h : signatureKind c b = .score) :
    frameKind c b = if tooShortForMap c b then .unknown else .score := by
  simp [frameKind, h]

/-- In a frame of kind `score` every field lies inside the frame. -/
theorem offset_lt_of_score {c : Config} {b : ByteBuffer} (h : frameKind c b = .score) {f : FieldRec}
    (hf : f ∈ c.fieldMap) : f.offset.toNat < b.bytes.length := by
  by_contra hbeyond
  have hshort : tooShortForMap c b = true := tooShortForMap_iff.mpr ⟨f, hf, not_lt.mp hbeyond⟩
  unfold frameKind at h
  split at h
  · cases h
  · next hn => exact hn ⟨h, hshort⟩

/-! ### The fields of a FRAME event (R233) -/

theorem readBb_of_lt {b : ByteBuffer} {k : Nat} (h : k < b.bytes.length) : b.bytes[k]? = some (readBb b k) := by
  simp [readBb, h]

theorem frameEvent_fields_of_score {s : State} (h : frameKind s.cfg s.bb = .score) :
    (frameEvent s).fields = s.cfg.fieldMap.map (extractField s.cfg s.bb) := if_pos h

theorem frameEvent_fields_of_other {s : State} (h : frameKind s.cfg s.bb ≠ .score) : (frameEvent s).fields = [] :=
  if_neg h

theorem extractField_eq (c : Config) (b : ByteBuffer) (f : FieldRec) :
    extractField c b f = ⟨f.fieldId,
      if f.ftype = 0 then BitVec.ofNat 8 (digitCode c.digitPatterns (readBb b f.offset.toNat))
      else readBb b f.offset.toNat &&& f.mask⟩ := by
  unfold extractField
  split <;> rfl

/-- Settles O37: the kind by the record found, the fields by `extractField`, the next state by the branches of
`reportFrame`. -/
theorem appDecodeReports : Obligations.AppDecodeReports := by
  intro s b0 b1 last mid hl hb hmid
  have hlong : 3 < s.bb.bytes.length := by
    have hpos : 0 < mid.length := List.length_pos_iff.mpr hmid
    simp only [hb, List.length_cons, List.length_append, List.length_nil]
    omega
  have hexec := exec_appDecode false hl
  rw [appDecode_of_long hlong] at hexec
  refine ⟨_, frameEvent s, hexec, rfl, rfl, rfl, rfl, rfl, ?kind, frameEvent_fields_of_other,
    fun hscore => ?fields, fun ⟨hk, hd⟩ => ?dropped, fun ⟨hk, hd⟩ => ?dumped, fun hk => ?known⟩
  case kind =>
    rw [← kindMatches_eq hb]
    split
    · next hnone => exact frameKind_of_no_record hnone
    · next r hr =>
      have hsig := signatureKind_of_record hr
      refine ⟨fun hk => ?_, fun hk hbeyond => ?_, fun hk hinside => ?_⟩ <;> rw [hk] at hsig
      · exact frameKind_of_clock hsig
      · exact (frameKind_of_score hsig).trans (if_pos (tooShortForMap_iff.mpr hbeyond))
      · refine (frameKind_of_score hsig).trans (if_neg fun hshort => ?_)
        obtain ⟨f, hf, hle⟩ := tooShortForMap_iff.mp hshort
        exact absurd (hinside f hf) hle.not_gt
  case fields =>
    rw [frameEvent_fields_of_score hscore]
    refine ⟨List.length_map _, fun k f hk => ⟨readBb s.bb f.offset.toNat, ?_, ?_⟩⟩
    · exact readBb_of_lt (offset_lt_of_score hscore (List.mem_of_getElem? hk))
    · rw [List.getElem?_map, hk, Option.map_some, extractField_eq]
  case dropped =>
    rw [reportFrame_dropped hk hd]
    rfl
  case dumped =>
    rw [reportFrame_dumped hk hd]
    rfl
  case known =>
    rw [reportFrame_of_known hk]
    rfl

end Sys2Proof.Machine
end

section
/-! What every FRAME event satisfies (R238): APP.DECODE emits only such events, and the operations that emit one do so
through it. -/

namespace Sys2Proof.Machine

/-- A digit value is a digit or blank (R238 (d)). -/
theorem extractField_digit {c : Config} (hl : c.legal = true) (b : ByteBuffer) {f : FieldRec} (h : f.ftype = 0) :
    (extractField c b f).value.toNat ≤ 9 ∨ (extractField c b f).value = 15 := by
  rw [extractField_eq, if_pos h]
  rcases digitCode_le_or_blank hl (readBb b f.offset.toNat) with hle | hblank
  · exact .inl ((Nat.mod_le _ _).trans hle)
  · exact .inr (congrArg (BitVec.ofNat 8) hblank)

/-- The event reports the byte buffer `b` under the configuration `c`: R238 (b) to (d), and of (a) the length. -/
def FrameEvent.Reports (c : Config) (b : ByteBuffer) (e : FrameEvent) : Prop :=
  3 < e.bytes.length ∧ e.bytes = b.bytes ∧ e.start = b.start ∧
  (e.kind = .score → e.fields.length = c.fieldMap.length) ∧ (e.kind ≠ .score → e.fields = []) ∧
  ∀ (k : Nat) (f : FieldRec) (v : FieldValue), c.fieldMap[k]? = some f → f.ftype = 0 →
    e.fields[k]? = some v → v.value.toNat ≤ 9 ∨ v.value = 15

theorem frameEvent_reports {s : State} (hl : s.cfg.legal = true) (hlong : 3 < s.bb.bytes.length) :
    (frameEvent s).Reports s.cfg s.bb := by
  refine ⟨hlong, rfl, rfl, fun hscore => ?_, frameEvent_fields_of_other, fun k f v hf hdigit hv => ?_⟩
  · rw [frameEvent_fields_of_score hscore, List.length_map]
  · by_cases hscore : frameKind s.cfg s.bb = .score
    · rw [frameEvent_fields_of_score hscore, List.getElem?_map, hf, Option.map_some, Option.some_inj] at hv
      rw [← hv]
      exact extractField_digit hl s.bb hdigit
    · rw [frameEvent_fields_of_other hscore] at hv
      cases hv

/-- From `s` to `t` only events are appended that report the byte buffer of `t`. -/
def AppendsReports (s t : State) : Prop :=
  ∃ evs, t.frames = s.frames ++ evs ∧ ∀ e ∈ evs, e.Reports s.cfg t.bb

theorem appendsReports_none {s t : State} (h : t.frames = s.frames) : AppendsReports s t :=
  ⟨[], by rw [h, List.append_nil], nofun⟩

/-- An operation that leaves the configuration and the events alone may come before. -/
theorem AppendsReports.after {s s' t : State} (h : AppendsReports s' t) (hk : KeepsHost s s')
    (hf : s'.frames = s.frames) : AppendsReports s t := by
  obtain ⟨hcfg, -⟩ := hk
  unfold AppendsReports at h ⊢
  rwa [hcfg, hf] at h

theorem SerialOnly.frames_eq {s t : State} (h : SerialOnly s t) : t.frames = s.frames := by
  unfold SerialOnly at h
  rw [h]

theorem reportFrame_appendsReports {s : State} (hl : s.cfg.legal = true) (hlong : 3 < s.bb.bytes.length) :
    AppendsReports s (reportFrame s).1 := by
  have hemit : ∀ t : State, t.frames = s.frames ++ [frameEvent s] → t.bb = s.bb → AppendsReports s t :=
    fun t hf hb => ⟨_, hf, List.forall_mem_singleton.mpr (hb ▸ frameEvent_reports hl hlong)⟩
  unfold reportFrame
  split
  · split
    · exact hemit _ rfl rfl
    · exact appendsReports_none rfl
  · exact hemit _ rfl rfl

theorem appDecode_appendsReports {s : State} (abort : Bool) (hl : s.cfg.legal = true) :
    AppendsReports s (appDecode abort s).1 := by
  unfold appDecode State.bbLen
  split
  · exact appendsReports_none rfl
  · split
    · exact appendsReports_none rfl
    · next hlong => exact reportFrame_appendsReports hl (not_le.mp hlong)

theorem gapAttempt_appendsReports {s : State} (hl : s.cfg.legal = true) : AppendsReports s (gapAttempt s).1 := by
  unfold gapAttempt
  split
  · next k _ =>
    have hser := serFrame_only (k + s.cfg.syncPattern.length) (startAt s.fb k) s
    have hhost := hser.gapOnly.keepsHost
    exact (appDecode_appendsReports _ (hhost.legal hl)).after hhost hser.frames_eq
  · dsimp only
    split <;> exact appendsReports_none rfl

/-- Emptying the frame buffer touches neither the events nor the byte buffer. -/
theorem syncGap_appendsReports {s : State} (hl : s.cfg.legal = true) : AppendsReports s (syncGap s).1 :=
  gapAttempt_appendsReports hl

theorem syncAppend_frames (e : ClassifiedBit) (s : State) : (syncAppend e s).frames = s.frames := by
  unfold syncAppend setFbTrunc
  split
  · rfl
  · split <;> rfl

theorem clsRun_frames (r : Run) (s : State) : (clsRun r s).1.frames = s.frames := by
  unfold clsRun
  split
  · rfl
  · split <;> rfl

theorem runSymbol_frames (r : SymbolRec) (s : State) : (runSymbol r s).1.frames = s.frames := by
  unfold runSymbol
  split <;> rfl

theorem demodSample_frames (i q : Byte) (s : State) : (demodSample i q s).1.frames = s.frames := rfl

theorem afterClassify_appendsReports {s : State} (c : ClsResult) (hl : s.cfg.legal = true) :
    AppendsReports s (afterClassify c s) := by
  cases c with
  | bit cb => exact appendsReports_none (syncAppend_frames cb s)
  | gap => exact syncGap_appendsReports hl
  | drop => exact appendsReports_none rfl

theorem afterRun_appendsReports {s : State} (r : Option Run) (hl : s.cfg.legal = true) :
    AppendsReports s (afterRun r s) := by
  cases r with
  | none => exact appendsReports_none rfl
  | some r =>
    have hhost := (clsRun_only r s).gapOnly.keepsHost
    exact (afterClassify_appendsReports _ (hhost.legal hl)).after hhost (clsRun_frames r s)

theorem pipelineStep_appendsReports {s : State} (i q : Byte) (hl : s.cfg.legal = true) :
    AppendsReports s (pipelineStep i q s) := by
  have hhost := ((demodSample_only i q s).trans (runSymbol_only (demodSample i q s).2 _)).keepsHost
  exact (afterRun_appendsReports _ (hhost.legal hl)).after hhost
    ((runSymbol_frames _ _).trans (demodSample_frames i q s))

theorem inByte_appendsReports {s : State} (b : Byte) (hl : s.cfg.legal = true) : AppendsReports s (inByte b s) := by
  unfold inByte
  split
  · exact pipelineStep_appendsReports s.diHold b hl
  · exact appendsReports_none rfl

theorem effect_appendsReports {s : State} (i : Instr) (hl : s.cfg.legal = true) : AppendsReports s (effect i s) := by
  cases i with
  | inByte b => exact inByte_appendsReports b hl
  | syncGap => exact syncGap_appendsReports hl
  | appDecode a => exact appDecode_appendsReports a hl
  | reset => exact appendsReports_none rfl
  | demodSample x q => exact appendsReports_none (demodSample_frames x q s)
  | magLookup x q => exact appendsReports_none rfl
  | swInit sel n v => exact appendsReports_none (State.setWindow_frames s sel _)
  | swUpdate sel v => exact appendsReports_none (State.setWindow_frames s sel _)
  | runSymbol sym idx => exact appendsReports_none (runSymbol_frames _ s)
  | clsRun val len start => exact appendsReports_none (clsRun_frames _ s)
  | syncAppend val len start => exact appendsReports_none (syncAppend_frames _ s)
  | serFrame ds x => exact appendsReports_none (serFrame_only _ x s).frames_eq
  | serBit b => exact appendsReports_none (serBit_only b s).frames_eq
  | appDigit b => exact appendsReports_none rfl

/-- Settles O39: operation by operation; IN.BYTE, SYNC.GAP and APP.DECODE are the ones that can emit an event. -/
theorem frameEventLaws : Obligations.FrameEventLaws := by
  intro i s t hl h
  obtain ⟨rfl, -⟩ := exec_inv h
  exact effect_appendsReports i hl

end Sys2Proof.Machine
end

/-! ## Proofs: the whole pipeline (spec/47_pipeline_top.md) -/

section
/-! What an operation appends to the outputs (R62, R255): a gap and APP.DECODE can emit one FRAME event, no other stage
any; and within a step the gap is reached only by closing a run of value 0 (R312). -/

namespace Sys2Proof.Machine

/-- The event that APP.DECODE answers is the one it emits. -/
theorem appDecode_frames (abort : Bool) (s : State) :
    (appDecode abort s).1.frames = s.frames ++ (appDecode abort s).2.toList := by
  unfold appDecode reportFrame
  repeat' split
  all_goals simp

theorem gapAttempt_frames (s : State) : (gapAttempt s).1.frames = s.frames ++ (gapAttempt s).2.toList := by
  cases hm : syncMatch s.cfg.syncPattern s.fb with
  | none =>
    rw [gapAttempt_of_no_match hm]
    exact (List.append_nil _).symm
  | some k =>
    have hser := serFrame_only (k + s.cfg.syncPattern.length) (startAt s.fb k) s
    rw [gapAttempt_of_match hm, frameAttempt, appDecode_frames, hser.frames_eq]

theorem syncGap_frames (s : State) : (syncGap s).1.frames = s.frames ++ (syncGap s).2.toList :=
  gapAttempt_frames s

/-- Steps 3 to 5 of R250 leave the FRAME events alone unless the closed run is a gap. -/
theorem afterRun_frames_cases (r : Option Run) (s : State) :
    (afterRun r s).frames = s.frames ∨ ∃ run, r = some run ∧ run.val = .zero ∧ afterRun r s = (syncGap s).1 := by
  cases r with
  | none => exact .inl rfl
  | some run =>
    obtain ⟨val, len, start⟩ := run
    by_cases hval : val = .zero
    · subst hval
      exact .inr ⟨_, rfl, rfl, rfl⟩
    · refine .inl ?_
      by_cases hacc : accepts s.cfg len.toNat = true
      · rw [afterRun, clsRun_accepted start hval hacc]
        exact syncAppend_frames _ s
      · rw [afterRun, clsRun_rejected start hval hacc]
        rfl

/-- A run closes when the symbol differs from its value; the new run then starts with this symbol (R171). -/
theorem runSymbol_eq_some {r : SymbolRec} {s : State} {run : Run} (h : (runSymbol r s).2 = some run) :
    run = s.run ∧ r.sym ≠ s.run.val ∧ (runSymbol r s).1 = s.setRun ⟨r.sym, 1, r.idx⟩ := by
  by_cases hsym : r.sym = s.run.val
  · rw [runSymbol_same hsym] at h
    cases h
  · rw [runSymbol_other hsym] at h ⊢
    cases h
    exact ⟨rfl, hsym, rfl⟩

/-- From `s` the processing of one sample closes a run of value 0 and ends in the gap of the state `u`, whose open run is
non-zero and holds this sample only. -/
def ClosesGap (s u : State) : Prop :=
  s.run.val = .zero ∧ u.frames = s.frames ∧ u.run.val ≠ .zero ∧ u.run.len = 1 ∧ u.run.start = s.n

theorem pipelineStep_frames_cases (i q : Byte) (s : State) :
    (pipelineStep i q s).frames = s.frames ∨ ∃ u, ClosesGap s u ∧ pipelineStep i q s = (syncGap u).1 := by
  let d := demodSample i q s
  let r := runSymbol d.2 d.1
  have hstep : pipelineStep i q s = afterRun r.2 r.1 := rfl
  have hframes : r.1.frames = s.frames := (runSymbol_frames _ _).trans (demodSample_frames i q s)
  rw [hstep, ← hframes]
  rcases afterRun_frames_cases r.2 r.1 with hsame | ⟨run, hclosed, hzero, hgap⟩
  · exact .inl hsame
  · obtain ⟨rfl, hsym, hopen⟩ := runSymbol_eq_some (r := d.2) (s := d.1) hclosed
    rw [hzero] at hsym
    refine .inr ⟨r.1, ⟨hzero, hframes, ?_⟩, hgap⟩
    rw [hopen]
    exact ⟨hsym, rfl, rfl⟩

/-- An input byte leaves the FRAME events alone unless it completes a sample that closes a gap. -/
theorem inByte_frames_cases (b : Byte) (s : State) :
    (inByte b s).frames = s.frames ∨ s.diPhase = true ∧ ∃ u, ClosesGap s u ∧ inByte b s = (syncGap u).1 := by
  cases hp : s.diPhase with
  | false =>
    rw [inByte_first b hp]
    exact .inl rfl
  | true =>
    rw [inByte_second b hp]
    exact (pipelineStep_frames_cases s.diHold b (s.setDi false s.diHold)).imp_right fun h => ⟨rfl, h⟩

/-- From `s` to `t` at most one FRAME event is appended. -/
def EmitsAtMostOne (s t : State) : Prop := ∃ ev : Option FrameEvent, t.frames = s.frames ++ ev.toList

theorem emitsAtMostOne_none {s t : State} (h : t.frames = s.frames) : EmitsAtMostOne s t :=
  ⟨none, by rw [h, Option.toList_none, List.append_nil]⟩

theorem inByte_emitsAtMostOne (b : Byte) (s : State) : EmitsAtMostOne s (inByte b s) := by
  rcases inByte_frames_cases b s with hsame | ⟨-, u, ⟨-, hu, -⟩, hgap⟩
  · exact emitsAtMostOne_none hsame
  · exact ⟨(syncGap u).2, by rw [hgap, syncGap_frames, hu]⟩

theorem effect_emitsAtMostOne (i : Instr) (s : State) : EmitsAtMostOne s (effect i s) := by
  cases i with
  | inByte b => exact inByte_emitsAtMostOne b s
  | syncGap => exact ⟨_, syncGap_frames s⟩
  | appDecode a => exact ⟨_, appDecode_frames a s⟩
  | reset => exact emitsAtMostOne_none rfl
  | demodSample x q => exact emitsAtMostOne_none (demodSample_frames x q s)
  | magLookup x q => exact emitsAtMostOne_none rfl
  | swInit sel n v => exact emitsAtMostOne_none (State.setWindow_frames s sel _)
  | swUpdate sel v => exact emitsAtMostOne_none (State.setWindow_frames s sel _)
  | runSymbol sym idx => exact emitsAtMostOne_none (runSymbol_frames _ s)
  | clsRun val len start => exact emitsAtMostOne_none (clsRun_frames _ s)
  | syncAppend val len start => exact emitsAtMostOne_none (syncAppend_frames _ s)
  | serFrame ds x => exact emitsAtMostOne_none (serFrame_only _ x s).frames_eq
  | serBit b => exact emitsAtMostOne_none (serBit_only b s).frames_eq
  | appDigit b => exact emitsAtMostOne_none rfl

/-- DIAG events and auxiliary pairs are appended: the effect is the one in the state without events, put inside the outside
of `s` (`effect_within`). -/
theorem effect_appends (i : Instr) (s : State) :
    ∃ ds as, (effect i s).diags = s.diags ++ ds ∧ (effect i s).aux = s.aux ++ as := by
  have h := effect_within s.outer i { s with frames := [], diags := [], aux := [] }
  rw [noEvents_within_outer] at h
  rw [h]
  exact ⟨_, _, rfl, rfl⟩

/-- Settles O52: FRAME events operation by operation, the other outputs since no operation reads them. -/
theorem atMostOneFramePerStep : Obligations.AtMostOneFramePerStep := by
  intro i s t h
  obtain ⟨rfl, -⟩ := exec_inv h
  obtain ⟨ev, hframes⟩ := effect_emitsAtMostOne i s
  obtain ⟨ds, as, hdiags, haux⟩ := effect_appends i s
  exact ⟨ev.toList, ds, as, hframes, Option.length_toList_le, hdiags, haux⟩

theorem GapOnly.run_eq {s t : State} (h : GapOnly s t) : t.run = s.run := by
  unfold GapOnly at h
  rw [h]

/-- Settles O53: a new event leaves only the case of `inByte_frames_cases` in which a gap closes. -/
theorem frameOnlyWhenGapCloses : Obligations.FrameOnlyWhenGapCloses := by
  intro b s t h hnew
  obtain ⟨rfl, -⟩ := exec_inv h
  obtain ⟨hphase, u, ⟨hzero, -, hval, hlen, hstart⟩, hgap⟩ := (inByte_frames_cases b s).resolve_left hnew
  have heffect : effect (.inByte b) s = (syncGap u).1.setResult .none := by rw [effect, hgap]
  have hrun : (syncGap u).1.run = u.run := (syncGap_only u).run_eq
  rw [heffect, State.setResult_run, hrun]
  exact ⟨hphase, hzero, hval, hlen, hstart, rfl, rfl⟩

end Sys2Proof.Machine
end

section
/-! The block as a stream transducer (R254): a step takes one byte, and the bytes behind it change nothing in what the
step does, since they lie outside the pipeline (`inByte_within`). -/

namespace Sys2Proof.Machine

/-- The outside in which the host offers the bytes `l` and nothing else. -/
def offering (l : List Byte) : Outer := ⟨l, [], [], [], [], .none⟩

theorem step_offering {s : State} (b : Byte) (l : List Byte) (hr : s.rst = false) (hl : s.cfg.legal = true) :
    step (s.within (offering (b :: l))) = .next ((inByte b s).within (offering l)) := by
  obtain ⟨htake, -⟩ := stepTakesNextByte (s.within (offering (b :: l))) hr rfl
  calc step (s.within (offering (b :: l))) = exec (.inByte b) (s.within (offering l)) := htake b l rfl
    _ = .next ((inByte b (s.within (offering l))).setResult .none) := exec_next rfl rfl hl
    _ = .next ((inByte b s).within (offering l)) := by rw [inByte_within, setResult_within]; rfl

theorem core_run_succ {M : Host.Core} {k : Nat} {s s' : M.State} (h : M.step s = .next s') :
    M.run (k + 1) s = M.run k s' := by
  simp only [Host.Core.run, h]

theorem core_run_offering {s : State} (bytes : List Byte) (hr : s.rst = false) (hl : s.cfg.legal = true) :
    Host.Core.run Sys2Proof.core bytes.length (s.within (offering bytes)) =
      .next ((takeBytes bytes s).within (offering [])) := by
  induction bytes generalizing s with
  | nil => rfl
  | cons b l ih =>
    have hlegal := (inByte_keepsHost b s).legal hl
    obtain ⟨-, -, hrst, -⟩ := inByte_keepsHost b s
    have hstep : Sys2Proof.core.step (s.within (offering (b :: l))) = .next ((inByte b s).within (offering l)) :=
      step_offering b l hr hl
    exact (core_run_succ hstep).trans (ih (hrst.trans hr) hlegal)

theorem takeBytes_within (o : Outer) (bytes : List Byte) (s : State) :
    takeBytes bytes (s.within o) = (takeBytes bytes s).within o :=
  List.foldl_hom (State.within · o) fun t b => inByte_within o b t

theorem takeBytes_append (a b : List Byte) (s : State) : takeBytes (a ++ b) s = takeBytes b (takeBytes a s) :=
  List.foldl_append

theorem run_of_legal {c : Config} (bytes : List Byte) (h : c.legal = true) :
    run c bytes = some (takeBytes bytes (State.resetWith c), (takeBytes bytes (State.resetWith c)).frames,
      (takeBytes bytes (State.resetWith c)).diags) := if_pos h

theorem run_of_illegal {c : Config} (bytes : List Byte) (h : c.legal = false) : run c bytes = none := by
  rw [run, h, if_neg Bool.false_ne_true]

/-- Settles O56: step by step from the reset state, which offers nothing (`core_run_offering`); the fold over `a ++ b` is
the fold over `b` from the state after `a`. -/
theorem runIsAStreamTransducer : Obligations.RunIsAStreamTransducer := by
  refine ⟨fun c bytes hl => ⟨?steps, run_of_legal bytes hl⟩, fun c a b s fs ds ha => ?append,
    fun c bytes => run_of_illegal bytes⟩
  case steps =>
    have hidle : (State.resetWith c).within (offering []) = State.resetWith c := rfl
    have hrun := core_run_offering (s := State.resetWith c) bytes rfl hl
    rw [← takeBytes_within, hidle] at hrun
    exact hrun
  case append =>
    cases hl : c.legal with
    | false =>
      rw [run_of_illegal a hl] at ha
      cases ha
    | true =>
      rw [run_of_legal a hl] at ha
      cases ha
      rw [run_of_legal (a ++ b) hl, takeBytes_append]

end Sys2Proof.Machine
end

/-! ## Proofs: the diagnostics and completion (spec/60_exceptions.md) -/

section
/-! The diagnostics of one frame attempt (R283), and that no condition stops the block (R270). -/

namespace Sys2Proof.Machine

/-- How the diagnostics `last` behind those of the bytes, the state `t` and the result `r` agree at the end of an attempt
that started at `x`: nothing more, an unfinished character, or a framing error (R211 steps 2 and 3). -/
def AttemptEnds (x : Index) (t : State) (last : List DiagEvent) (r : FrameResult) : Prop :=
  (r = .ok ∧ t.ser.state = .wait ∧ last = []) ∨
  (r = .ok ∧ t.ser.state ≠ .wait ∧ last = [⟨.partialChar, x⟩]) ∨
  (r = .ferr ∧ ∃ y, last = [⟨.ferr, y⟩])

theorem serFrame_endings (ds : Nat) (x : Index) (s : State) :
    ∃ t last r, serFrame ds x s = ({ t with diags := t.diags ++ last }, r) ∧ Attempt x s.diags t ∧
      AttemptEnds x t last r := by
  rcases serFrame_cases ds x s with ⟨t, ht, ha⟩ | ⟨t, e, -, ht, ha, -⟩
  · rw [serFinish_eq ha.start_eq] at ht
    by_cases hw : t.ser.state = .wait
    · exact ⟨t, _, .ok, ht, ha, .inl ⟨rfl, hw, if_pos hw⟩⟩
    · exact ⟨t, _, .ok, ht, ha, .inr (.inl ⟨rfl, hw, if_neg hw⟩)⟩
  · exact ⟨t, [⟨.ferr, e.start⟩], .ferr, ht, ha, .inr (.inr ⟨rfl, e.start, rfl⟩)⟩

/-- Settles O34: what is raised for the bytes is `Attempt`; the rest goes by the three endings. -/
theorem attemptDiagnosticsOrdered : Obligations.AttemptDiagnosticsOrdered := by
  intro ds x s t h
  obtain ⟨rfl, -⟩ := exec_inv h
  obtain ⟨u, last, r, hframe, ⟨-, mid, hdiags, hmid, hnodup, htrunc, hperr⟩, hend⟩ := serFrame_endings ds.toNat x s
  have heffect : effect (.serFrame ds x) s =
      { u with diags := s.diags ++ mid ++ last, result := .serFrame r } := by
    rw [effect, hframe, hdiags]
    rfl
  rw [heffect]
  refine ⟨mid, last, rfl, hmid, hnodup, htrunc, hperr, ?_⟩
  obtain ⟨rfl, hw, rfl⟩ | ⟨rfl, hw, rfl⟩ | ⟨rfl, y, rfl⟩ := hend
  · simp [hw]
  · simp [hw]
  · simp

/-- Settles O44: the operands are in range and the configuration is legal, so the operation completes with its effect. -/
theorem everyOperationCompletes : Obligations.EveryOperationCompletes :=
  fun i s hwf hl hr => ⟨effect i s, exec_eq_next_effect (wellFormed_iff.mp hwf) hl hr⟩

end Sys2Proof.Machine
end

/-! ## Proofs: reset (spec/70_reset_and_hazards.md) -/

section
/-! RESET (R300) and the mode *reset* (R287). -/

namespace Sys2Proof.Machine

/-- Settles O41: the reset state is a function of the configuration inputs and of what is the host's, and RESET keeps both. -/
theorem resetIsIdempotent : Obligations.ResetIsIdempotent :=
  fun s hl => ⟨_, resetGivesResetState s hl, resetGivesResetState _ hl⟩

theorem step_eq_reset {s : State} (hr : s.rst = true) : step s = exec .reset s :=
  step_of_fetch_run (fetch_eq_reset hr)

/-- Settles O48: RESET is fetched, and it keeps the pins, the streams and the outputs. -/
theorem stepInResetMode : Obligations.StepInResetMode := by
  intro s hr
  refine ⟨step_eq_reset hr, fun t ht => ?_⟩
  obtain ⟨rfl, -⟩ := exec_inv ((step_eq_reset hr).symm.trans ht)
  exact ⟨rfl, rfl, rfl, rfl, hr⟩

end Sys2Proof.Machine
end
